-- ==== Sys2Proof/Word.lean ====
section
/-! DEFINITION. The bit-vector types of the SHA-256 engine (spec/00_scope.md R10 and R11, spec/10_state.md R20,
spec/30_encoding.md R80). Every value of the engine is unsigned and bit 0 is its least significant bit. -/

namespace Sys2Proof

/-- A word of 32 bits, WORD_W of R10: the width of H, of a..h, of W and of K. -/
abbrev Word := BitVec 32

/-- A byte of 8 bits (R11): a message byte, a byte of BUF, a byte of DIGEST. -/
abbrev Byte := BitVec 8

/-- A command word of 10 bits, CMD_W of R10, as it stands on the cmd port (R80). -/
abbrev Cmd := BitVec 10

/-- The byte counter's width, CNT_W of R10: this hardware takes 64 (R26). -/
abbrev Count := BitVec 64

/-- The fill index of the buffer, 6 bits (R27). -/
abbrev FillIndex := BitVec 6

/-- The length field that padding writes, LEN_W of R10: 64 bits, counted in bits of message. -/
abbrev BitLength := BitVec 64

end Sys2Proof
end

