-- ==== Sys2Proof/Machine/Mix.lean ====
section
/-! DEFINITION. The bit rotation utilities and the mixing functions (spec/40_rotate_and_mix.md R100 to R111). All of
them are pure functions of 32-bit words: they read and write no state, set no flag and raise nothing (R111). -/

namespace Sys2Proof.Machine

/-- ADD32: addition modulo 2^32, the carry discarded (R104). It is the `+` of every rule of the data path. -/
def add32 (x y : Word) : Word :=
  x + y

/-- ROTL32: bit i of the operand becomes bit (i + n) mod 32 of the result, n = count mod 32 (R100). -/
def rotl32 (value : Word) (count : Nat) : Word :=
  value.rotateLeft count

/-- ROTR32: bit i of the operand becomes bit (i - n) mod 32 of the result, n = count mod 32 (R101). -/
def rotr32 (value : Word) (count : Nat) : Word :=
  value.rotateRight count

/-- SHR32: the logical right shift, for counts 0 to 31 (R103). -/
def shr32 (x : Word) (n : Nat) : Word :=
  x >>> n

/-- Ch, in the form the source prints (R105). -/
def ch (x y z : Word) : Word :=
  z ^^^ (x &&& (y ^^^ z))

/-- Maj, in the form the source prints (R106). -/
def maj (x y z : Word) : Word :=
  (x &&& y) ||| (z &&& (x ||| y))

/-- What the definitions of the four Sigma functions have in common: two right rotations of the operand, by r and by s,
and a third term, joined by exclusive or (R107 to R110). -/
def xorRotations (r s : Nat) (third x : Word) : Word :=
  rotr32 x r ^^^ rotr32 x s ^^^ third

/-- Sigma0, the source's Σ0: the third term is a rotation by 22 (R107). -/
def bigSigma0 (x : Word) : Word :=
  xorRotations 2 13 (rotr32 x 22) x

/-- Sigma1, the source's Σ1: the third term is a rotation by 25 (R108). -/
def bigSigma1 (x : Word) : Word :=
  xorRotations 6 11 (rotr32 x 25) x

/-- sigma0, the source's σ0: the third term is a shift by 3 (R109). -/
def smallSigma0 (x : Word) : Word :=
  xorRotations 7 18 (shr32 x 3) x

/-- sigma1, the source's σ1: the third term is a shift by 10 (R110). -/
def smallSigma1 (x : Word) : Word :=
  xorRotations 17 19 (shr32 x 10) x

end Sys2Proof.Machine
end

