-- ==== Sys2Proof/Machine/State.lean ====
section
/-! DEFINITION. The state of the machine (spec/10_state.md R20), the reasons a step can stop, and the state right after
reset (R39). `Engine` is R20's list, field for field. `State` adds what lies around one engine instance: the rest of the
handshake (R32), the input pins the host drives (R31), and the number of the clock edge, to which the free values of
Config are applied. -/

namespace Sys2Proof.Machine

/-- CTX, the state of the Hash Context as the host can see it (R28). The source's third state, Finalized, is left inside
FINAL and is never the state between two commands (R150). -/
inductive Ctx where
  /-- FRESH, the bit 0. -/
  | fresh
  /-- ACCUM, the bit 1. -/
  | accum
  deriving DecidableEq, Repr

/-- The working registers a..h (R23). -/
structure Work where
  a : Word
  b : Word
  c : Word
  d : Word
  e : Word
  f : Word
  g : Word
  h : Word
  deriving DecidableEq, Repr

/-- The contents of a byte store: the listed addresses, strictly rising, and no entry for a byte that reads as an
unlisted one does (Memory.wf of Machine/Ops.lean). -/
abbrev Memory := List Host.Cell

/-- What the host drives on the engine's inputs at one rising edge of clk (R31). -/
structure Pins where
  /-- rst, synchronous and active high (R200). -/
  rst : Bool
  /-- cmd_valid: a command is presented (R32). -/
  cmdValid : Bool
  /-- cmd: the command word, sampled only at an accepting edge (R80, R84). -/
  cmd : Cmd
  deriving DecidableEq, Repr

/-- One engine instance: exactly the fields of R20. -/
structure Engine where
  /-- `H[0..7]`, the HashState (R21). -/
  h : Vector Word 8
  /-- a..h, scratch of COMPRESS (R23). -/
  work : Work
  /-- `W[0..15]`, the schedule window, scratch of COMPRESS (R24). -/
  w : Vector Word 16
  /-- CNT, the byte counter (R26). -/
  cnt : Count
  /-- FILL, the buffer fill index (R27). -/
  fill : FillIndex
  /-- `BUF[0..63]`, the accumulation buffer and the engine's only byte-addressed store (R30, R50). -/
  buf : Memory
  /-- CTX (R28). -/
  ctx : Ctx
  /-- `DIGEST[0..31]`, the digest output register (R29). -/
  digest : Vector Byte 32
  /-- DV, the digest's valid bit (R29). -/
  dv : Bool
  deriving DecidableEq, Repr

/-- The machine: one engine, its handshake, and the host's side of the pins. -/
structure State where
  /-- The engine instance (R20). -/
  engine : Engine
  /-- For how many further edges a command in progress keeps cmd_ready at 0 (R32, LAT of R10). cmd_ready is 1 when this
  is 0. -/
  busy : Nat
  /-- What the host drives at the next edges, the next one first. After the last listed edge it drives rst = 0 and
  cmd_valid = 0 (assumption 3). -/
  pins : List Pins
  /-- The number of the next clock edge: the model's own field, the argument of Config's free values (assumption 4). -/
  edge : Nat
  deriving DecidableEq, Repr

/-- The reasons an engine can stop with a fault: none. R180 says that the fault type of the engine has no constructor,
because every command is accepted in every state and completes. Nothing raises one. -/
inductive Fault where
  deriving DecidableEq, Repr

/-- The reasons an instruction is refused. -/
inductive Refusal where
  /-- The instruction has no meaning in this model yet. Raised only by an arm of exec; no arm of this model raises it.
  Safe: the machine stops where the hardware goes on. -/
  | notModelled (mnemonic : String)
  deriving DecidableEq, Repr

/-- The working registers from a list of eight words, a first. -/
def Work.ofVector (v : Vector Word 8) : Work :=
  ⟨v[0], v[1], v[2], v[3], v[4], v[5], v[6], v[7]⟩

/-- The engine after a reset (R39): H, CNT, FILL, CTX and DV take the values of R39's table; DIGEST, BUF, W and a..h,
which R39 leaves unspecified, are the arguments. -/
def Engine.afterReset (digest : Vector Byte 32) (buf : Memory) (w : Vector Word 16) (work : Work) : Engine where
  h := iv
  work := work
  w := w
  cnt := 0
  fill := 0
  buf := buf
  ctx := .fresh
  digest := digest
  dv := false

/-- The machine right after reset (R39, R200): cmd_ready is 1 and the host has presented nothing yet. Where R39 leaves a
field unspecified, this one state holds zeros (DESIGN CHOICE, assumptions 1 and 2: unsafe). -/
def State.reset : State where
  engine := Engine.afterReset (Vector.replicate 32 0) [] (Vector.replicate 16 0) (Work.ofVector (Vector.replicate 8 0))
  busy := 0
  pins := []
  edge := 0

end Sys2Proof.Machine
end

