-- ==== Sys2Proof/Machine/Ops.lean ====
section
/-! DEFINITION. The named operations over the engine's byte store and registers (spec/00_scope.md R13 and R14,
spec/20_memory.md R50 to R52). The engine takes no exception and returns from none (spec/60_exceptions.md R180, R184),
so there is no exception entry here; the one event that changes the state outside a command is reset, in
Machine/Port.lean. -/

namespace Sys2Proof.Machine

/-- What a byte of BUF reads as that nothing has written since power-on: R39 leaves it unspecified, and the model lists
no entry for it (DESIGN CHOICE, assumption 2: unsafe). -/
def unlistedByte : Byte := 0

/-- `MemRead(addr, 1)` of R14: the byte at an address. -/
def Memory.read : Memory → Nat → Byte
  | [], _ => unlistedByte
  | (k, v) :: rest, addr => if addr = k then v else Memory.read rest addr

/-- Puts a cell in front, unless it holds what an unlisted byte reads as. -/
def Memory.cell (addr : Nat) (b : Byte) (rest : Memory) : Memory :=
  if b = unlistedByte then rest else (addr, b) :: rest

/-- `MemWrite(addr, 1, b)` of R14, the buffer write of R51: it replaces one byte and keeps the canonical form. -/
def Memory.write : Memory → Nat → Byte → Memory
  | [], addr, b => Memory.cell addr b []
  | (k, v) :: rest, addr, b =>
    if addr < k then Memory.cell addr b ((k, v) :: rest)
    else if addr = k then Memory.cell addr b rest
    else (k, v) :: Memory.write rest addr b

/-- The canonical form, from an address on: addresses strictly rising, inside the 64 indices of BUF (R50), and no entry
that holds what an unlisted byte reads as. -/
def Memory.wfFrom : Nat → Memory → Bool
  | _, [] => true
  | lo, (k, v) :: rest => decide (lo ≤ k) && decide (k < 64) && decide (v ≠ unlistedByte) && Memory.wfFrom (k + 1) rest

/-- The canonical form of BUF. -/
def Memory.wf (m : Memory) : Bool :=
  Memory.wfFrom 0 m

/-- `MemRead(addr, 4)` of R14: four bytes from an address on, the first the most significant (R52). -/
def Memory.read4 (m : Memory) (addr : Nat) : Word :=
  m.read addr ++ m.read (addr + 1) ++ m.read (addr + 2) ++ m.read (addr + 3)

/-- A store whose bytes 0 to n - 1 are given by a function. -/
def Memory.ofBytes (byte : Nat → Byte) : Nat → Memory
  | 0 => []
  | n + 1 => (Memory.ofBytes byte n).write n (byte n)

/-- `H[0..7] <- v` (R13). -/
def Engine.setH (e : Engine) (v : Vector Word 8) : Engine := { e with h := v }

/-- `(a, ..., h) <- v` (R13). -/
def Engine.setWork (e : Engine) (v : Work) : Engine := { e with work := v }

/-- `W[0..15] <- v` (R13). -/
def Engine.setW (e : Engine) (v : Vector Word 16) : Engine := { e with w := v }

/-- `CNT <- v` (R26). -/
def Engine.setCnt (e : Engine) (v : Count) : Engine := { e with cnt := v }

/-- `FILL <- v` (R27). -/
def Engine.setFill (e : Engine) (v : FillIndex) : Engine := { e with fill := v }

/-- BUF takes new contents (R30). -/
def Engine.setBuf (e : Engine) (v : Memory) : Engine := { e with buf := v }

/-- `CTX <- v` (R28). -/
def Engine.setCtx (e : Engine) (v : Ctx) : Engine := { e with ctx := v }

/-- `DIGEST[0..31] <- v`, all 32 bytes at once (R29, R58). -/
def Engine.setDigest (e : Engine) (v : Vector Byte 32) : Engine := { e with digest := v }

/-- `DV <- v` (R29). -/
def Engine.setDv (e : Engine) (v : Bool) : Engine := { e with dv := v }

/-- `BUF[addr] <- b` (R51). -/
def Engine.store (e : Engine) (addr : Nat) (b : Byte) : Engine :=
  e.setBuf (e.buf.write addr b)

/-- The machine with another engine state: its handshake and pins stay as they are. -/
def State.withEngine (s : State) (e : Engine) : State := { s with engine := e }

/-- The machine with another number of busy edges. -/
def State.withBusy (s : State) (n : Nat) : State := { s with busy := n }

/-- The machine with other pins. -/
def State.withPins (s : State) (p : List Pins) : State := { s with pins := p }

/-- The machine at another clock edge. -/
def State.withEdge (s : State) (n : Nat) : State := { s with edge := n }

end Sys2Proof.Machine
end

