-- ==== Sys2Proof/Machine/Operands.lean ====
section
/-! DEFINITION. The operands the commands and micro-operations work on beside a command's own byte: the effective
address of PUSH (spec/43_hash_context.md R153), the words of the block (spec/20_memory.md R52), the length field (R54,
R155) and the bytes of the digest (R53). All byte orders are big-endian and fixed (R56). -/

namespace Sys2Proof.Machine

/-- The effective address of PUSH: FILL, and there is no other addressing mode (R153). -/
def Engine.pushAddress (e : Engine) : Nat :=
  e.fill.toNat

/-- `BufWord(j)`, the block's word j in 0..15: four bytes of BUF from index 4j on, big-endian (R52). -/
def bufWord (m : Memory) (j : Nat) : Word :=
  m.read4 (4 * j)

/-- `L <- (CNT * 8) mod 2^64`, CNT taken as an unsigned integer (R155). -/
def messageLength (cnt : Count) : BitLength :=
  BitVec.ofNat 64 (cnt.toNat * 8)

/-- `L[63 - 8i : 56 - 8i]`, byte i in 0..7 of the length field (R54). -/
def lengthByte (len : BitLength) (i : Nat) : Byte :=
  len.extractLsb' (56 - 8 * i) 8

/-- The eight bytes of the length field in the order FINAL pushes them (R54, R155). -/
def lengthBytes (len : BitLength) : List Byte :=
  [lengthByte len 0, lengthByte len 1, lengthByte len 2, lengthByte len 3,
   lengthByte len 4, lengthByte len 5, lengthByte len 6, lengthByte len 7]

/-- `H[i][31 - 8k : 24 - 8k]`, byte k in 0..3 of a word, the most significant first (R53). -/
def wordByte (x : Word) (k : Nat) : Byte :=
  x.extractLsb' (24 - 8 * k) 8

/-- The digest of a HashState: `DIGEST[4i + k]` is byte k of `H[i]` (R53). -/
def serializeDigest (h : Vector Word 8) : Vector Byte 32 :=
  Vector.ofFn fun n : Fin 32 => wordByte h[n.val / 4] (n.val % 4)

end Sys2Proof.Machine
end

