-- ==== Sys2Proof/Machine/Schedule.lean ====
section
/-! DEFINITION. The message-schedule expander (spec/41_message_schedule.md R120 to R124): the circular window that the
engine holds, and the direct 64-word schedule that R123 allows in its place. -/

namespace Sys2Proof.Machine

/-- SCHED_LOAD: `W[j] <- BufWord(j)` for j in 0..15 (R120). -/
def Engine.schedLoad (e : Engine) : Engine :=
  e.setW (Vector.ofFn fun j : Fin 16 => bufWord e.buf j.val)

/-- The word that SCHED_STEP(t) writes, from the window before the write (R121). -/
def windowWord (w : Vector Word 16) (t : Nat) : Word :=
  w[t % 16] + smallSigma0 w[(t + 1) % 16] + w[(t + 9) % 16] + smallSigma1 w[(t + 14) % 16]

/-- SCHED_STEP(t), for t in 16..63: it rewrites the slot t mod 16 of the window (R121). -/
def Engine.schedStep (t : Nat) (e : Engine) : Engine :=
  e.setW (e.w.set (t % 16) (windowWord e.w t))

/-- The first 16 + n words of the direct schedule of a block: `Wd[t]` is the block's word for t < 16, and the recurrence
without index wrapping after that (R123). -/
@[irreducible] def directSchedule (block : Nat → Word) : Nat → List Word
  | 0 => (List.range 16).map block
  | n + 1 =>
    let wd := directSchedule block n
    wd ++ [wd.getD n 0 + smallSigma0 (wd.getD (n + 1) 0) + wd.getD (n + 9) 0 + smallSigma1 (wd.getD (n + 14) 0)]

/-- `Wd[t]` for t in 0..63 (R123). -/
def directWord (block : Nat → Word) (t : Nat) : Word :=
  (directSchedule block 48).getD t 0

end Sys2Proof.Machine
end

