-- ==== Sys2Proof/Machine/Compress.lean ====
section
/-! DEFINITION. The compression engine (spec/42_compression.md R130 to R136): WORK_LOAD, ROUND, FEEDFWD and COMPRESS in
the normative form, and the rotating-register form that R134 allows in its place. -/

namespace Sys2Proof.Machine

/-- WORK_LOAD: a..h take `H[0..7]` (R130). -/
def Engine.workLoad (e : Engine) : Engine :=
  e.setWork (Work.ofVector e.h)

/-- T1 of a round, with its constant k and its schedule word w (R131). -/
def Work.t1 (x : Work) (k w : Word) : Word :=
  x.h + bigSigma1 x.e + ch x.e x.f x.g + k + w

/-- T2 of a round (R131). -/
def Work.t2 (x : Work) : Word :=
  bigSigma0 x.a + maj x.a x.b x.c

/-- The simultaneous assignment of a round (R131). -/
def Work.mix (x : Work) (k w : Word) : Work :=
  ⟨x.t1 k w + x.t2, x.a, x.b, x.c, x.d + x.t1 k w, x.e, x.f, x.g⟩

/-- ROUND(t), t in 0..63, with `K[t]` and `W[t mod 16]` (R131). -/
def Engine.round (t : Nat) (e : Engine) : Engine :=
  e.setWork (e.work.mix (roundConst t) e.w[t % 16])

/-- The part of round t that comes before ROUND(t): SCHED_STEP(t) when t is 16 or more (R133). -/
def Engine.prepareRound (t : Nat) (e : Engine) : Engine :=
  if 16 ≤ t then e.schedStep t else e

/-- The scratch state of COMPRESS: a..h and W, all that the rounds write (R20). -/
structure Scratch where
  work : Work
  w : Vector Word 16
  deriving DecidableEq, Repr

/-- The window that ROUND(t) reads: SCHED_STEP(t) has run when t is 16 or more (R133). -/
def preparedWindow (t : Nat) (w : Vector Word 16) : Vector Word 16 :=
  if 16 ≤ t then w.set (t % 16) (windowWord w t) else w

/-- SCHED_STEP(t) when t is 16 or more, and then ROUND(t), on the scratch state (R133). -/
def Scratch.round (t : Nat) (x : Scratch) : Scratch :=
  ⟨x.work.mix (roundConst t) (preparedWindow t x.w)[t % 16], preparedWindow t x.w⟩

/-- The first n rounds of COMPRESS, t = 0 to n - 1 in increasing order, on the scratch state (R133). -/
@[irreducible] def Scratch.rounds : Nat → Scratch → Scratch
  | 0, x => x
  | t + 1, x => (Scratch.rounds t x).round t

/-- The scratch state of an engine. -/
def Engine.scratch (e : Engine) : Scratch := ⟨e.work, e.w⟩

/-- The first n rounds of COMPRESS (R133): they write a..h and W and nothing else. -/
def Engine.rounds (n : Nat) (e : Engine) : Engine :=
  (e.setW (e.scratch.rounds n).w).setWork (e.scratch.rounds n).work

/-- The HashState words, each with its working register added: `H[0] + a` to `H[7] + h` (R132). -/
def feedForward (h : Vector Word 8) (x : Work) : Vector Word 8 :=
  #v[h[0] + x.a, h[1] + x.b, h[2] + x.c, h[3] + x.d, h[4] + x.e, h[5] + x.f, h[6] + x.g, h[7] + x.h]

/-- FEEDFWD (R132). -/
def Engine.feedFwd (e : Engine) : Engine :=
  e.setH (feedForward e.h e.work)

/-- The state in which the rounds of a COMPRESS start: after SCHED_LOAD and WORK_LOAD (R133). -/
def Engine.compressStart (e : Engine) : Engine :=
  e.schedLoad.workLoad

/-- COMPRESS: the whole transform of one block (R133). -/
@[irreducible] def Engine.compress (e : Engine) : Engine :=
  (Engine.rounds 64 e.compressStart).feedFwd

/-- `SchedWord(t)` of the COMPRESS that starts in e: the content of `W[t mod 16]` when ROUND(t) runs (R122). -/
def Engine.schedWord (e : Engine) (t : Nat) : Word :=
  ((Engine.rounds t e.compressStart).prepareRound t).w[t % 16]

/-- `ix(r) = (r - t) mod 8`, the physical slot of the logical register r in round t, a = 0 to h = 7 (R134). -/
def slotOf (t r : Nat) : Nat :=
  (r + 7 * t) % 8

/-- ROUND(t) on the physical array of the rotating-register form, with the round's constant k and schedule word w: two
slots are written in place and no register moves (R134). -/
def rotatingRound (t : Nat) (k w : Word) (p : Vector Word 8) : Vector Word 8 :=
  let ix (r : Nat) : Fin 8 := ⟨slotOf t r, Nat.mod_lt _ (by decide)⟩
  let p1 := p.set (ix 7) (p[ix 7] + bigSigma1 p[ix 4] + ch p[ix 4] p[ix 5] p[ix 6] + k + w)
  let p2 := p1.set (ix 3) (p1[ix 3] + p1[ix 7])
  p2.set (ix 7) (p2[ix 7] + bigSigma0 p2[ix 0] + maj p2[ix 0] p2[ix 1] p2[ix 2])

/-- The physical array after n rounds on the schedule words w, from a HashState: WORK_LOAD is `T[i] <- H[i]` (R134). -/
@[irreducible] def rotatingRounds (h : Vector Word 8) (w : Nat → Word) : Nat → Vector Word 8
  | 0 => h
  | t + 1 => rotatingRound t (roundConst t) (w t) (rotatingRounds h w t)

/-- COMPRESS in the rotating-register form: FEEDFWD is `H[i] <- H[i] + T[i]` (R134). -/
def rotatingCompress (h : Vector Word 8) (w : Nat → Word) : Vector Word 8 :=
  feedForward h (Work.ofVector (rotatingRounds h w 64))

end Sys2Proof.Machine
end

