-- ==== Sys2Proof/Machine/Flags.lean ====
section
/-! DEFINITION. The status bits. The engine has no condition codes and no arithmetic flags (spec/10_state.md R35); its
only status bits are CTX (R28), DV (R29) and the handshake output cmd_ready (R32). -/

namespace Sys2Proof.Machine

/-- The bit that stands for a context state: FRESH is 0, ACCUM is 1 (R28). -/
def Ctx.bit (c : Ctx) : Bool :=
  match c with
  | .fresh => false
  | .accum => true

/-- `CTX <- FRESH` (R152). -/
def Engine.markFresh (e : Engine) : Engine :=
  e.setCtx .fresh

/-- `CTX <- ACCUM` (R154). -/
def Engine.markAccum (e : Engine) : Engine :=
  e.setCtx .accum

/-- `DV <- 1` (R155). -/
def Engine.markValid (e : Engine) : Engine :=
  e.setDv true

/-- The output cmd_ready: 1 when no command is in progress (R32). -/
def State.cmdReady (s : State) : Bool :=
  s.busy == 0

end Sys2Proof.Machine
end

