-- ==== Sys2Proof/Machine/Context.lean ====
section
/-! DEFINITION. The operations of the Hash Context that its commands share (spec/43_hash_context.md R150 to R157): the
context reset of R152, PUSH of R153, and the padding and digest steps of R155. -/

namespace Sys2Proof.Machine

/-- The pseudocode of INIT: H, CNT, FILL and CTX (R152). It is also the last step of FINAL (R155) and the effect of
reset on the context (R200). -/
def Engine.initContext (e : Engine) : Engine :=
  (((e.setH iv).setCnt 0).setFill 0).markFresh

/-- What PUSH does once its byte is written: COMPRESS and `FILL <- 0` at index 63, else `FILL <- FILL + 1` (R153). -/
def Engine.advanceFill (e : Engine) : Engine :=
  if e.fill = 63 then e.compress.setFill 0 else e.setFill (e.fill + 1)

/-- PUSH(b): `BUF[FILL] <- b`, and then COMPRESS when the buffer is full (R153). -/
def Engine.push (b : Byte) (e : Engine) : Engine :=
  (e.store e.pushAddress b).advanceFill

/-- PUSH of each byte of a list, in order. -/
def Engine.pushAll : List Byte → Engine → Engine
  | [], e => e
  | b :: rest, e => Engine.pushAll rest (e.push b)

/-- `while FILL != 56: PUSH(0x00)`, at most n times (R155). R156 bounds the loop by 63. -/
def Engine.padZeros : Nat → Engine → Engine
  | 0, e => e
  | n + 1, e => if e.fill = 56 then e else Engine.padZeros n (e.push 0x00)

/-- The padding of FINAL: 0x80, the zero bytes, and the eight bytes of the length that was formed from CNT before any
padding byte was pushed (R155). -/
def Engine.pad (e : Engine) : Engine :=
  Engine.pushAll (lengthBytes (messageLength e.cnt)) (Engine.padZeros 63 (e.push 0x80))

/-- The digest step of FINAL: `DIGEST <- H`, big-endian, and `DV <- 1` (R53, R155). -/
def Engine.emitDigest (e : Engine) : Engine :=
  (e.setDigest (serializeDigest e.h)).markValid

end Sys2Proof.Machine
end

