-- ==== Sys2Proof/Machine/HashContext.lean ====
section
/-! DEFINITION. The meanings of the four host commands (spec/43_hash_context.md R151, R152, R154 and R155). Every
command is accepted in every state and completes; none faults and none is refused (R180). -/

namespace Sys2Proof.Machine

/-- UPDATE(data) on the engine: CNT first, then PUSH, then CTX (R154). -/
def Engine.updateByte (data : Byte) (e : Engine) : Engine :=
  (Engine.push data (e.setCnt (e.cnt + 1))).markAccum

/-- FINAL on the engine: padding, digest, and the context reset (R155). -/
def Engine.finalDigest (e : Engine) : Engine :=
  e.pad.emitDigest.initContext

/-- NOP: every field of the state keeps its value (R151). -/
def execNop (s : State) : Host.Outcome State Fault Refusal :=
  .next s

/-- INIT: the context becomes Fresh; BUF, W, a..h, DIGEST and DV are not written (R152). -/
def execInit (s : State) : Host.Outcome State Fault Refusal :=
  .next (s.withEngine s.engine.initContext)

/-- UPDATE: one byte of the message (R154). -/
def execUpdate (data : Byte) (s : State) : Host.Outcome State Fault Refusal :=
  .next (s.withEngine (s.engine.updateByte data))

/-- FINAL: padding, the last COMPRESS, the digest, and the return to Fresh (R155). -/
def execFinal (s : State) : Host.Outcome State Fault Refusal :=
  .next (s.withEngine s.engine.finalDigest)

end Sys2Proof.Machine
end

