-- ==== Sys2Proof/Syntax.lean ====
section
/-! DEFINITION. The four host commands (spec/30_encoding.md R82, one constructor for each row of
spec/opcode_table.json), the text form of one command line (R87), and the pseudo-commands (R88). -/

namespace Sys2Proof

/-- The host commands of R82. NOP, INIT and FINAL have no operand: the data bits of their words are ignored (R81). -/
inductive Instr where
  /-- NOP, op 00 (spec/43_hash_context.md R151). -/
  | nop
  /-- INIT, op 01, the source's `initialize()` (R152). -/
  | init
  /-- UPDATE, op 10, with its message byte cmd[7:0]: one byte of the source's `update(bytes)` (R154). -/
  | update (data : Byte)
  /-- FINAL, op 11, the source's `finalize(out_digest)` (R155). -/
  | final
  deriving DecidableEq, Repr

/-- The four mnemonics of R87. -/
inductive Mnemonic where
  | nop
  | init
  | update
  | final
  deriving DecidableEq, Repr

/-- One command line of the text form of R87 after it has been split into words: a mnemonic, and the number that its
operand spells where it has one. WellFormed.lean says which of these lines are commands. -/
structure AsmLine where
  mnemonic : Mnemonic
  operand : Option Nat
  deriving DecidableEq, Repr

/-- The pseudo-commands of R88 that expand to a fixed sequence of commands. `double_hash` needs the digest of its first
half before its second half can be written down: it is Machine/Pseudo.lean's `doubleHash`. -/
inductive PseudoCommand where
  /-- `initialize()` -/
  | apiInit
  /-- `update(m)` -/
  | apiUpdate (m : List Byte)
  /-- `finalize()` -/
  | apiFinal
  /-- `hash(m)` -/
  | apiHash (m : List Byte)
  deriving DecidableEq, Repr

end Sys2Proof
end

