-- ==== Sys2Proof/Config.lean ====
section
/-! DEFINITION. What an implementation of the engine decides and the spec leaves open: the latencies (spec/00_scope.md
R10, spec/70_reset_and_hazards.md R208), the fields a reset leaves unspecified (spec/10_state.md R39) and the outputs in
the cycles in which they are undefined (R33). Every one of them is a FREE VALUE: a constant without a body, applied to
the number of the clock edge, so that no proof can see what it is and no two edges need agree. -/

namespace Sys2Proof.Config

/-- LAT_NOP (R10): the cycles a NOP accepted at this edge keeps cmd_ready low. -/
opaque latNop : Nat → Nat

/-- LAT_INIT (R10): the cycles an INIT accepted at this edge keeps cmd_ready low. -/
opaque latInit : Nat → Nat

/-- LAT_UPDATE (R10): the cycles an UPDATE accepted at this edge keeps cmd_ready low. -/
opaque latUpdate : Nat → Nat

/-- LAT_FINAL (R10): the cycles a FINAL accepted at this edge keeps cmd_ready low. -/
opaque latFinal : Nat → Nat

/-- What DIGEST holds after a reset taken at this edge: unspecified (R39, U6). -/
opaque unspecDigest : Nat → Vector Byte 32

/-- What `BUF[i]` holds after a reset taken at this edge, the edge first and then i: unspecified (R39, U5). -/
opaque unspecBuf : Nat → Nat → Byte

/-- What `W[0..15]` holds after a reset taken at this edge: unspecified (R39, U7). -/
opaque unspecWindow : Nat → Vector Word 16

/-- What a..h hold, in this order, after a reset taken at this edge: unspecified (R39, U7). -/
opaque unspecWork : Nat → Vector Word 8

/-- What the digest port shows in a cycle in which it is undefined (R33, U6, U8). -/
opaque portDigest : Nat → BitVec 256

/-- What the digest_valid port shows in a cycle in which it is undefined (R33, U8). -/
opaque portDigestValid : Nat → Bool

/-- What the ctx_accum port shows in a cycle in which it is undefined (R33, U8). -/
opaque portCtxAccum : Nat → Bool

end Sys2Proof.Config
end

