-- ==== Sys2Proof/WellFormed.lean ====
section
/-! DEFINITION. Which numbers are command words and which text lines are commands (spec/30_encoding.md R80, R81, R84,
R87). R84 leaves no illegal encoding, so every command is well formed; what can be ill formed is a number that does not
fit the 10 bits of the cmd port, and a text line whose operand is missing, misplaced or wider than a byte. -/

namespace Sys2Proof

/-- A number is a command word when it fits the 10 bits of the cmd port (R80). -/
def cmdNumberFits (n : Nat) : Bool :=
  decide (n < 1024)

/-- UPDATE takes one operand, the other three take none (R87). -/
def AsmLine.operandCountOk (l : AsmLine) : Bool :=
  match l.mnemonic with
  | .nop => l.operand.isNone
  | .init => l.operand.isNone
  | .update => l.operand.isSome
  | .final => l.operand.isNone

/-- An operand is one byte (R81, R87). -/
def AsmLine.operandFits (l : AsmLine) : Bool :=
  match l.operand with
  | none => true
  | some v => decide (v < 256)

/-- A text line that is a command. -/
def AsmLine.wellFormed (l : AsmLine) : Bool :=
  l.operandCountOk && l.operandFits

/-- Every command is well formed: R84 makes no encoding illegal or reserved, and the type of UPDATE's operand is the
byte of R81. -/
def Instr.wellFormed (i : Instr) : Bool :=
  match i with
  | .nop => true
  | .init => true
  | .update data => decide (data.toNat < 256)
  | .final => true

end Sys2Proof
end

