-- ==== Sys2Proof/Decode.lean ====
section
/-! DEFINITION. The command encoding (spec/30_encoding.md R80 to R85): the format C10, the decoder, the encoder, and
the words of spec/opcode_table.json. The decoder is total on the 10 bits of the port, as R82 and R84 say; a number that
does not fit them is rejected by name. -/

namespace Sys2Proof

/-- The op field of C10: bits 9:8 (R80). -/
def cmdOp (c : Cmd) : BitVec 2 :=
  c.extractLsb' 8 2

/-- The data field of C10: bits 7:0 (R80, R81). -/
def cmdData (c : Cmd) : Byte :=
  c.extractLsb' 0 8

/-- The decoder: op selects the command, and only UPDATE uses data (R81, R82). -/
def decode (c : Cmd) : Instr :=
  if cmdOp c = 0 then .nop
  else if cmdOp c = 1 then .init
  else if cmdOp c = 2 then .update (cmdData c)
  else .final

/-- Why a number is no command. -/
inductive DecodeError where
  /-- It does not fit the 10 bits of the cmd port (R80). -/
  | widerThanPort
  deriving DecidableEq, Repr

/-- The command that a number spells, or the reason it spells none. -/
def decodeNumber (n : Nat) : Except DecodeError Instr :=
  if cmdNumberFits n then .ok (decode (BitVec.ofNat 10 n)) else .error .widerThanPort

/-- The op value of a command (R82). -/
def Instr.op (i : Instr) : BitVec 2 :=
  match i with
  | .nop => 0
  | .init => 1
  | .update _ => 2
  | .final => 3

/-- The data bits of a command's canonical word: UPDATE's byte, and 0 for the other three (R83). -/
def Instr.canonicalData (i : Instr) : Byte :=
  match i with
  | .nop => 0
  | .init => 0
  | .update data => data
  | .final => 0

/-- The encoder: the canonical word, op in bits 9:8 and data in bits 7:0 (R80, R83). -/
def encode (i : Instr) : Cmd :=
  i.op ++ i.canonicalData

/-- The mask of every row of the opcode table (R82). -/
def tableMask : Cmd := 0x300

/-- The match value of a command's row in the opcode table (R82). -/
def Instr.tableMatch (i : Instr) : Cmd :=
  match i with
  | .nop => 0x000
  | .init => 0x100
  | .update _ => 0x200
  | .final => 0x300

/-- The bits w, of which the table gives nbits, as one number: the bits above nbits are 0. -/
def tableNumber (nbits w : Nat) : Nat :=
  w % 2 ^ nbits

/-- The command the decoder reads from a word of the opcode table, numbered as the table numbers its bits. -/
def decodeTableWord (nbits w : Nat) : Option Instr :=
  match decodeNumber (tableNumber nbits w) with
  | .ok i => some i
  | .error _ => none

end Sys2Proof
end

