-- ==== Sys2Proof/Machine/Port.lean ====
section
/-! DEFINITION. The ports of the engine (spec/10_state.md R31 to R33): what the host drives at an edge, what the engine
shows in a cycle, how a command occupies it, and reset (spec/70_reset_and_hazards.md R200 and R201). -/

namespace Sys2Proof.Machine

/-- The pins of a host that presents nothing: `rst` = 0 and `cmd_valid` = 0 (R190). -/
def Pins.idle : Pins := ⟨false, false, 0⟩

/-- The pins at the next edge: the first that are listed, and idle ones when none is (assumption 3). -/
def State.nowPins (s : State) : Pins :=
  match s.pins with
  | [] => Pins.idle
  | p :: _ => p

/-- One clock edge is over: the next listed pins are next, and the edges are numbered on. -/
def State.nextEdge (s : State) : State :=
  (s.withPins s.pins.tail).withEdge (s.edge + 1)

/-- A command is accepted at the next edge: rst = 0, cmd_valid = 1 and cmd_ready = 1 (R32). -/
def State.accepts (s : State) : Bool :=
  !s.nowPins.rst && s.nowPins.cmdValid && s.cmdReady

/-- The cycles a command accepted at an edge keeps cmd_ready low: LAT of R10, a free value. -/
def latencyOf (i : Instr) (edge : Nat) : Nat :=
  match i with
  | .nop => Config.latNop edge
  | .init => Config.latInit edge
  | .update _ => Config.latUpdate edge
  | .final => Config.latFinal edge

/-- The outcome of a command that occupies the engine for n edges: cmd_ready is 0 for so long (R32). -/
def occupyFor (n : Nat) (o : Host.Outcome State Fault Refusal) : Host.Outcome State Fault Refusal :=
  match o with
  | .next s => .next (s.withBusy n)
  | .fault r => .fault r
  | .refused r => .refused r

/-- An edge at which no command is accepted: a command in progress comes one edge nearer to its end, and nothing else
changes (R32). -/
def State.wait (s : State) : State :=
  s.withBusy (s.busy - 1)

/-- The engine after a reset taken at an edge: R39's table, the fields it leaves unspecified free values. -/
@[irreducible] def Engine.resetAt (edge : Nat) : Engine :=
  Engine.afterReset (Config.unspecDigest edge) (Memory.ofBytes (Config.unspecBuf edge) 64)
    (Config.unspecWindow edge) (Work.ofVector (Config.unspecWork edge))

/-- Reset: the engine takes the reset state, a command in progress is abandoned, and cmd_ready is 1 at the first edge
with rst = 0 (R200, R201). That it is 1 already while rst is held is the model's choice (DESIGN CHOICE, assumption 14:
unsafe). -/
def State.resetEdge (s : State) : State :=
  (s.withEngine (Engine.resetAt s.edge)).withBusy 0

/-- The engine's outputs in one cycle (R31). -/
structure Outputs where
  /-- cmd_ready -/
  cmdReady : Bool
  /-- digest -/
  digest : BitVec 256
  /-- digest_valid -/
  digestValid : Bool
  /-- ctx_accum -/
  ctxAccum : Bool
  deriving DecidableEq, Repr

/-- The digest port: byte `DIGEST[i]` is bits [255 - 8i : 248 - 8i] (R53). -/
def digestPort (d : Vector Byte 32) : BitVec 256 :=
  d.toList.foldl (fun acc b => (acc <<< 8) ||| b.zeroExtend 256) 0

/-- digest, digest_valid and ctx_accum are defined in a cycle with cmd_ready = 1 and rst = 0 (R33). -/
def State.outputsDefined (s : State) : Bool :=
  s.cmdReady && !s.nowPins.rst

/-- What the ports show in the cycle before the next edge (R31, R33). An undefined output is a free value, and so is
digest while digest_valid is 0 (U6, U8). cmd_ready in a cycle with rst = 1 is not given by the spec: R39 names it only
for the first cycle after reset is released. It shows `busy = 0` there too, so 1 while a reset is held (DESIGN CHOICE,
assumption 14: unsafe). -/
def State.outputs (s : State) : Outputs where
  cmdReady := s.cmdReady
  digest :=
    if s.outputsDefined && s.engine.dv then digestPort s.engine.digest else Config.portDigest s.edge
  digestValid := if s.outputsDefined then s.engine.dv else Config.portDigestValid s.edge
  ctxAccum := if s.outputsDefined then s.engine.ctx.bit else Config.portCtxAccum s.edge

/-- The pins of a host that presents a number as a command: a number wider than the cmd port cannot be presented. -/
def Pins.present (n : Nat) : Pins :=
  if cmdNumberFits n then ⟨false, true, BitVec.ofNat 10 n⟩ else Pins.idle

end Sys2Proof.Machine
end

