-- ==== Sys2Proof/Machine/Step.lean ====
section
/-! DEFINITION. One step of the machine: one rising edge of clk (spec/10_state.md R31 and R32, spec/60_exceptions.md
R183, spec/70_reset_and_hazards.md R200). The engine fetches nothing (R34): the command is what the host drives on cmd
at an accepting edge. -/

namespace Sys2Proof.Machine

/-- One rising edge of clk. rst wins over everything (R183); else a command that is presented to a ready engine is
accepted and its whole effect applied, and it occupies the engine for its latency (R32); else nothing is accepted. -/
def step (s : State) : Host.Outcome State Fault Refusal :=
  if s.nowPins.rst then .next s.resetEdge.nextEdge
  else if s.accepts then
    occupyFor (latencyOf (decode s.nowPins.cmd) s.edge) (exec (decode s.nowPins.cmd) s.nextEdge)
  else .next s.wait.nextEdge

/-- The machine with a word of the opcode table presented to it: the host drives it on cmd at the next edge, with
cmd_valid = 1 and rst = 0, and the engine is ready, so that the next step accepts it. -/
def State.withFetchWord (s : State) (nbits w : Nat) : State :=
  (s.withPins (Pins.present (tableNumber nbits w) :: s.pins.tail)).withBusy 0

end Sys2Proof.Machine
end

