-- ==== Sys2Proof/Machine/Text.lean ====
section
/-! DEFINITION. The text form of command sequences (spec/30_encoding.md R87): one command per line, upper-case
mnemonics, UPDATE's operand as 0x and two hexadecimal digits, and a line may end with a semicolon and a comment. Text is
a list of characters. -/

namespace Sys2Proof.Machine

/-- Why a line of text is no command. -/
inductive TextError where
  /-- The line holds no word before its comment. -/
  | noCommand
  /-- The first word is none of the four mnemonics. -/
  | unknownMnemonic
  /-- The second word is not 0x and two hexadecimal digits. -/
  | badOperand
  /-- The line holds more than two words. -/
  | tooManyWords
  /-- The operand is missing or misplaced for this mnemonic. -/
  | operandCount
  deriving DecidableEq, Repr

/-- A line up to its comment. -/
def stripComment : List Char → List Char
  | [] => []
  | c :: rest => if c = ';' then [] else c :: stripComment rest

/-- The words of a line, the characters of the word being read kept in order in the first argument. -/
def wordsFrom : List Char → List Char → List (List Char)
  | word, [] => if word = [] then [] else [word]
  | word, c :: rest =>
    if c = ' ' ∨ c = '\t' then (if word = [] then wordsFrom [] rest else word :: wordsFrom [] rest)
    else wordsFrom (word ++ [c]) rest

/-- The value of a hexadecimal digit; both letter cases are read (DESIGN CHOICE, assumption 9: safe). -/
def hexDigit (c : Char) : Option Nat :=
  if '0' ≤ c ∧ c ≤ '9' then some (c.toNat - '0'.toNat)
  else if 'a' ≤ c ∧ c ≤ 'f' then some (c.toNat - 'a'.toNat + 10)
  else if 'A' ≤ c ∧ c ≤ 'F' then some (c.toNat - 'A'.toNat + 10)
  else none

/-- The mnemonic that a word spells. -/
def mnemonicOf (word : List Char) : Option Mnemonic :=
  if word = ['N', 'O', 'P'] then some .nop
  else if word = ['I', 'N', 'I', 'T'] then some .init
  else if word = ['U', 'P', 'D', 'A', 'T', 'E'] then some .update
  else if word = ['F', 'I', 'N', 'A', 'L'] then some .final
  else none

/-- The number that an operand spells. -/
def operandOf (word : List Char) : Option Nat :=
  match word with
  | ['0', 'x', hi, lo] =>
    match hexDigit hi, hexDigit lo with
    | some h, some l => some (16 * h + l)
    | _, _ => none
  | _ => none

/-- The command of a line that has been split into its mnemonic and operand. -/
def AsmLine.command (l : AsmLine) : Except TextError Instr :=
  if l.wellFormed then
    match l.mnemonic, l.operand with
    | .nop, _ => .ok .nop
    | .init, _ => .ok .init
    | .update, some v => .ok (.update (BitVec.ofNat 8 v))
    | .update, none => .error .operandCount
    | .final, _ => .ok .final
  else .error .operandCount

/-- The command that a line of text spells (R87). -/
def parseLine (text : List Char) : Except TextError Instr :=
  match wordsFrom [] (stripComment text) with
  | [] => .error .noCommand
  | [word] =>
    match mnemonicOf word with
    | some m => AsmLine.command ⟨m, none⟩
    | none => .error .unknownMnemonic
  | [word, operand] =>
    match mnemonicOf word, operandOf operand with
    | some m, some v => AsmLine.command ⟨m, some v⟩
    | some _, none => .error .badOperand
    | none, _ => .error .unknownMnemonic
  | _ => .error .tooManyWords

/-- One hexadecimal digit as a character, lower case. -/
def hexChar (d : Nat) : Char :=
  if d < 10 then Char.ofNat ('0'.toNat + d) else Char.ofNat ('a'.toNat + (d - 10))

/-- The line of text that spells a command (R87). -/
def printLine (i : Instr) : List Char :=
  match i with
  | .nop => ['N', 'O', 'P']
  | .init => ['I', 'N', 'I', 'T']
  | .update data =>
    ['U', 'P', 'D', 'A', 'T', 'E', ' ', '0', 'x', hexChar (data.toNat / 16), hexChar (data.toNat % 16)]
  | .final => ['F', 'I', 'N', 'A', 'L']

end Sys2Proof.Machine
end

