-- ==== Sys2Proof/Machine/Pseudo.lean ====
section
/-! DEFINITION. The pseudo-commands of spec/30_encoding.md R88 and the commands they expand to; running a list of
commands one after another, each wholly before the next (spec/20_memory.md R62). -/

namespace Sys2Proof.Machine

/-- `update(m)`: one UPDATE for each byte, in order, and none when m is empty (R88, R165). -/
def updateCommands (m : List Byte) : List Instr :=
  m.map Instr.update

/-- The expansion of a pseudo-command (R88). -/
def expand (p : PseudoCommand) : List Instr :=
  match p with
  | .apiInit => [.init]
  | .apiUpdate m => updateCommands m
  | .apiFinal => [.final]
  | .apiHash m => .init :: (updateCommands m ++ [.final])

/-- A list of commands accepted one after another. -/
def runCommands : List Instr → State → Host.Outcome State Fault Refusal
  | [], s => .next s
  | i :: rest, s =>
    match exec i s with
    | .next t => runCommands rest t
    | .fault r => .fault r
    | .refused r => .refused r

/-- `double_hash(m)`: `hash(m)`, and then `hash(d)` of the 32 bytes d that the first digest holds, `DIGEST[0]` first
(R88, R161, R211). -/
def doubleHash (m : List Byte) (s : State) : Host.Outcome State Fault Refusal :=
  match runCommands (expand (.apiHash m)) s with
  | .next t => runCommands (expand (.apiHash t.engine.digest.toList)) t
  | .fault r => .fault r
  | .refused r => .refused r

end Sys2Proof.Machine
end

