-- ==== Sys2Proof/Machine/Reference.lean ====
section
/-! DEFINITION. The function the engine computes, written without the machine: `Compress` on a HashState and a block of
64 bytes with the direct schedule (spec/42_compression.md R133, spec/41_message_schedule.md R123), and `Hash` of a
message (spec/43_hash_context.md R158). Statements compare the machine with it. -/

namespace Sys2Proof.Machine

/-- The big-endian word j of a block of bytes (R52). -/
def blockWord (block : Nat → Byte) (j : Nat) : Word :=
  block (4 * j) ++ block (4 * j + 1) ++ block (4 * j + 2) ++ block (4 * j + 3)

/-- The working registers after n rounds on the schedule words w, from a HashState (R130, R131). -/
@[irreducible] def refRounds (h : Vector Word 8) (w : Nat → Word) : Nat → Work
  | 0 => Work.ofVector h
  | t + 1 => (refRounds h w t).mix (roundConst t) (w t)

/-- `Compress(H, BUF)` (R133), with the direct schedule of R123. -/
@[irreducible] def compressBlock (h : Vector Word 8) (block : Nat → Byte) : Vector Word 8 :=
  feedForward h (refRounds h (directWord (blockWord block)) 64)

/-- z, the count of zero bytes that pad a message of n bytes: (55 - n) mod 64 (R156, R158). -/
def zeroCount (n : Nat) : Nat :=
  (119 - n % 64) % 64

/-- `P`: the message, 0x80, the zero bytes, and the 64-bit big-endian length in bits (R158). -/
def paddedMessage (m : List Byte) : List Byte :=
  m ++ 0x80 :: (List.replicate (zeroCount m.length) 0x00 ++ lengthBytes (BitVec.ofNat 64 (8 * m.length)))

/-- Byte k in 0..63 of the block j of a byte sequence. -/
def blockByte (p : List Byte) (j k : Nat) : Byte :=
  p.getD (64 * j + k) 0

/-- `X_j`: the HashState after the first j blocks of a byte sequence, from IV (R158). -/
def chainBlocks (p : List Byte) : Nat → Vector Word 8
  | 0 => iv
  | j + 1 => compressBlock (chainBlocks p j) (blockByte p j)

/-- `Hash(m)` (R158). -/
def hashMessage (m : List Byte) : Vector Byte 32 :=
  serializeDigest (chainBlocks (paddedMessage m) ((paddedMessage m).length / 64))

end Sys2Proof.Machine
end

