-- ==== Sys2Proof/Safety.lean ====
section
/-! DEFINITION. What counts as a good state and a well-behaved host, in the terms the statements use. The engine has no
error state (spec/60_exceptions.md R180), so a safe run is one whose states keep the invariants of spec/10_state.md R38
and whose host keeps the obligations of spec/70_reset_and_hazards.md R206 and R207. -/

namespace Sys2Proof.Machine

/-- The engine has taken exactly the message bytes m since it was last Fresh: I1 to I5 of R38, word for word. -/
structure Engine.Absorbed (m : List Byte) (e : Engine) : Prop where
  /-- I1 -/
  cnt_eq : e.cnt = BitVec.ofNat 64 m.length
  /-- I2 -/
  fill_eq : e.fill.toNat = m.length % 64
  /-- I3 -/
  buf_eq : ∀ i, i < e.fill.toNat → e.buf.read i = m.getD (64 * (m.length / 64) + i) 0
  /-- I4 -/
  h_eq : e.h = chainBlocks m (m.length / 64)
  /-- I5 -/
  ctx_eq : e.ctx = .fresh ↔ m = []

/-- What every state between two commands keeps: BUF is in its canonical form, the engine holds some message (R38), and
a valid DIGEST is the hash of some message (R29, R158). -/
structure State.Inv (s : State) : Prop where
  buf_wf : s.engine.buf.wf = true
  message : ∃ m, s.engine.Absorbed m
  digest : s.engine.dv = true → ∃ m, s.engine.digest = hashMessage m

/-- The context is as INIT leaves it (R152, R159). -/
def Engine.IsFresh (e : Engine) : Prop :=
  e.h = iv ∧ e.cnt = 0 ∧ e.fill = 0 ∧ e.ctx = .fresh

/-- Two engines that differ at most in what no rule reads: W, a..h, and the stale bytes of BUF at FILL and above (R23,
R24, R30, R67). -/
structure Engine.SameButStale (d e : Engine) : Prop where
  h_eq : d.h = e.h
  cnt_eq : d.cnt = e.cnt
  fill_eq : d.fill = e.fill
  ctx_eq : d.ctx = e.ctx
  digest_eq : d.digest = e.digest
  dv_eq : d.dv = e.dv
  buf_eq : ∀ i, i < d.fill.toNat → d.buf.read i = e.buf.read i

/-- The host holds a presented command until it is accepted (R206): at the next edge it presents the same one again. -/
def State.HostHolds (s : State) : Prop :=
  s.nowPins.rst = false → s.nowPins.cmdValid = true → s.cmdReady = false →
    s.nextEdge.nowPins.cmdValid = true ∧ s.nextEdge.nowPins.cmd = s.nowPins.cmd

/-- The host may use the digest port in this cycle (R207). -/
def State.digestUsable (s : State) : Bool :=
  s.outputsDefined && s.engine.dv

end Sys2Proof.Machine
end

