-- ==== Sys2Proof/Certificates/Slice0/Obligations.lean ====
section
/-! DEFINITION. The statements about the model, each from the numbered rules of spec/. -/

open Sys2Proof Sys2Proof.Machine

/-! ## The constants -/

/-- R22: the eight words of IV, and that they are the first 32 bits of the fractional parts of the square roots of the
first eight primes: for the prime p with square root r and q = floor r, `q * 2^32 + IV[i]` is the largest integer whose
square is at most `p * 2^64`. -/
def Obligations.InitialHashIsRootsOfPrimes : Prop :=
  iv = #v[0x6a09e667, 0xbb67ae85, 0x3c6ef372, 0xa54ff53a, 0x510e527f, 0x9b05688c, 0x1f83d9ab, 0x5be0cd19] ∧
    ∀ (i : Nat) (hi : i < 8),
      let p := [2, 3, 5, 7, 11, 13, 17, 19].getD i 0
      ∃ q, q < 5 ∧
        (q * 2 ^ 32 + iv[i].toNat) ^ 2 ≤ p * 2 ^ 64 ∧ p * 2 ^ 64 < (q * 2 ^ 32 + iv[i].toNat + 1) ^ 2

/-- The primes up to 311, by trial division: the numbers from 2 on that no smaller number from 2 on divides. -/
def primesTo311 : List Nat :=
  (List.range 312).filter fun n => decide (2 ≤ n) && (List.range n).all fun d => decide (d < 2) || decide (n % d ≠ 0)

/-- R25's values: `K[t]` is the first 32 bits of the fractional part of the cube root of the prime number t, counted
from 0. For the prime p with cube root r and q = floor r, `q * 2^32 + K[t]` is the largest integer whose cube is at most
`p * 2^96`. -/
def Obligations.RoundConstantsAreRootsOfPrimes : Prop :=
  primesTo311.length = 64 ∧ kTable.length = 64 ∧
    ∀ t, t < 64 →
      let p := primesTo311.getD t 0
      ∃ q, q < 7 ∧
        (q * 2 ^ 32 + (roundConst t).toNat) ^ 3 ≤ p * 2 ^ 96 ∧
        p * 2 ^ 96 < (q * 2 ^ 32 + (roundConst t).toNat + 1) ^ 3

/-! ## The pure functions -/

/-- R100, whole. -/
def Obligations.RotateLeftMovesBitsCircularly : Prop :=
  ∀ (x : Word) (count : Nat),
    (count % 32 = 0 → rotl32 x count = x) ∧
    (0 < count % 32 →
      (rotl32 x count).toNat =
        x.toNat * 2 ^ (count % 32) % 2 ^ 32 + x.toNat / 2 ^ (32 - count % 32)) ∧
    (∀ i, i < 32 → (rotl32 x count).getLsbD ((i + count % 32) % 32) = x.getLsbD i) ∧
    rotl32 x count = rotl32 x (count % 32) ∧
    rotl32 0x00000000 count = 0x00000000 ∧ rotl32 0xffffffff count = 0xffffffff ∧
    rotl32 0x80000001 1 = 0x00000003 ∧ rotl32 0x12345678 8 = 0x34567812

/-- R101, whole. -/
def Obligations.RotateRightMovesBitsCircularly : Prop :=
  ∀ (x : Word) (count : Nat),
    (count % 32 = 0 → rotr32 x count = x) ∧
    (0 < count % 32 →
      (rotr32 x count).toNat =
        x.toNat / 2 ^ (count % 32) + x.toNat * 2 ^ (32 - count % 32) % 2 ^ 32) ∧
    (∀ i, i < 32 → (rotr32 x count).getLsbD i = x.getLsbD ((i + count % 32) % 32)) ∧
    rotr32 x count = rotr32 x (count % 32) ∧
    rotr32 0x00000000 count = 0x00000000 ∧ rotr32 0xffffffff count = 0xffffffff ∧
    rotr32 0x80000001 1 = 0xc0000000 ∧ rotr32 0x12345678 8 = 0x78123456

/-- The identities of R102 and its example. -/
def Obligations.RotationsAreInverse : Prop :=
  (∀ (x : Word) (n : Nat), rotr32 (rotl32 x n) n = x ∧ rotl32 x n = rotr32 x ((32 - n % 32) % 32)) ∧
  rotl32 0x12345678 4 = 0x23456781 ∧ rotr32 0x12345678 28 = 0x23456781

/-- R103 and R104: the shift is a division and ADD32 is addition modulo 2^32. -/
def Obligations.ShiftAndAddAreArithmetic : Prop :=
  (∀ (x : Word) (n : Nat), n ≤ 31 → (shr32 x n).toNat = x.toNat / 2 ^ n) ∧
  (∀ x : Word, shr32 x 0 = x) ∧
  shr32 0x12345678 4 = 0x01234567 ∧ shr32 0xffffffff 10 = 0x003fffff ∧
  (∀ x y : Word, (add32 x y).toNat = (x.toNat + y.toNat) % 2 ^ 32 ∧ add32 x y = x + y) ∧
  (∀ x y : Word, add32 x y = add32 y x) ∧
  (∀ x y z : Word, add32 (add32 x y) z = add32 x (add32 y z)) ∧
  (∀ x : Word, add32 x 0 = x) ∧
  add32 0xffffffff 1 = 0 ∧ add32 0x80000000 0x80000000 = 0 ∧ add32 0xfffffffe 0x00000003 = 0x00000001

/-- R105 and R106: the printed forms, bit by bit the choice and the majority, the forms FIPS 180-4 prints, and the corner
cases and examples of the two rules. -/
def Obligations.ChoiceAndMajority : Prop :=
  (∀ x y z : Word,
    ch x y z = z ^^^ (x &&& (y ^^^ z)) ∧
    (∀ i, (ch x y z).getLsbD i = if x.getLsbD i then y.getLsbD i else z.getLsbD i) ∧
    ch x y z = (x &&& y) ^^^ (~~~x &&& z) ∧
    ch 0xffffffff y z = y ∧ ch 0 y z = z ∧ ch x y y = y) ∧
  ch 0x510e527f 0x9b05688c 0x1f83d9ab = 0x1f85c98c ∧
  (∀ x y z : Word,
    maj x y z = (x &&& y) ||| (z &&& (x ||| y)) ∧
    (∀ i, (maj x y z).getLsbD i =
      decide (2 ≤ (x.getLsbD i).toNat + (y.getLsbD i).toNat + (z.getLsbD i).toNat)) ∧
    maj x y z = (x &&& y) ^^^ (x &&& z) ^^^ (y &&& z) ∧
    maj x y z = maj y x z ∧ maj x y z = maj x z y ∧
    maj x x z = x ∧ maj 0 y z = y &&& z ∧ maj 0xffffffff y z = y ||| z) ∧
  maj 0x6a09e667 0xbb67ae85 0x3c6ef372 = 0x3a6fe667

/-- R107 to R110: every bit of the four Sigma functions as the exclusive or of three bits of the operand, the third term
of the small ones a shift; with the corner cases and the examples of the rules. -/
def Obligations.SigmaFunctionsBitByBit : Prop :=
  (∀ (x : Word) (i : Nat), i < 32 →
    (bigSigma0 x).getLsbD i =
      ((x.getLsbD ((i + 2) % 32) ^^ x.getLsbD ((i + 13) % 32)) ^^ x.getLsbD ((i + 22) % 32)) ∧
    (bigSigma1 x).getLsbD i =
      ((x.getLsbD ((i + 6) % 32) ^^ x.getLsbD ((i + 11) % 32)) ^^ x.getLsbD ((i + 25) % 32)) ∧
    (smallSigma0 x).getLsbD i =
      ((x.getLsbD ((i + 7) % 32) ^^ x.getLsbD ((i + 18) % 32)) ^^ x.getLsbD (i + 3)) ∧
    (smallSigma1 x).getLsbD i =
      ((x.getLsbD ((i + 17) % 32) ^^ x.getLsbD ((i + 19) % 32)) ^^ x.getLsbD (i + 10))) ∧
  (∀ x : Word,
    bigSigma0 x = rotr32 x 2 ^^^ rotr32 x 13 ^^^ rotr32 x 22 ∧
    bigSigma1 x = rotr32 x 6 ^^^ rotr32 x 11 ^^^ rotr32 x 25 ∧
    smallSigma0 x = rotr32 x 7 ^^^ rotr32 x 18 ^^^ shr32 x 3 ∧
    smallSigma1 x = rotr32 x 17 ^^^ rotr32 x 19 ^^^ shr32 x 10) ∧
  bigSigma0 0 = 0 ∧ bigSigma0 0xffffffff = 0xffffffff ∧
  bigSigma0 0x6a09e667 = 0xce20b47e ∧ bigSigma0 1 = 0x40080400 ∧
  bigSigma1 0 = 0 ∧ bigSigma1 0xffffffff = 0xffffffff ∧
  bigSigma1 0x510e527f = 0x3587272b ∧ bigSigma1 1 = 0x04200080 ∧
  smallSigma0 0 = 0 ∧ smallSigma0 0xffffffff = 0x1fffffff ∧
  smallSigma0 1 = 0x02004000 ∧ smallSigma0 0x61626380 = 0x940e90ef ∧
  smallSigma1 0 = 0 ∧ smallSigma1 0xffffffff = 0x003fffff ∧
  smallSigma1 0x18 = 0x000f0000 ∧ smallSigma1 1 = 0x0000a000

/-! ## The encoding -/

/-- Decoding the canonical word of a command gives the command back, on the port and through the opcode table; and
encoding a decoded word gives its canonical word (R82, R83). -/
def Obligations.DecodeInvertsEncode : Prop :=
  (∀ i : Instr, i.wellFormed = true → decode (encode i) = i) ∧
  (∀ (i : Instr) (nbits : Nat), 10 ≤ nbits → decodeTableWord nbits (encode i).toNat = some i) ∧
  (∀ c : Cmd, encode (decode c) =
    (c.extractLsb' 8 2 ++ (if c.extractLsb' 8 2 = 2 then c.extractLsb' 0 8 else 0 : Byte) : BitVec (2 + 8)))

/-- R82 and R83: op selects the command, each of the 1024 words matches exactly one row and spells that row's command
for every value of data, and the canonical words are those of the table. -/
def Obligations.EveryWordSpellsOneCommand : Prop :=
  (∀ c : Cmd,
    (c &&& 0x300 = 0x000 → decode c = .nop) ∧
    (c &&& 0x300 = 0x100 → decode c = .init) ∧
    (c &&& 0x300 = 0x200 → decode c = .update (c.extractLsb' 0 8)) ∧
    (c &&& 0x300 = 0x300 → decode c = .final) ∧
    (c &&& 0x300 = 0x000 ∨ c &&& 0x300 = 0x100 ∨ c &&& 0x300 = 0x200 ∨ c &&& 0x300 = 0x300)) ∧
  encode .nop = 0x000 ∧ encode .init = 0x100 ∧ encode .final = 0x300 ∧
  (∀ d : Byte, encode (.update d) = 0x200 + d.zeroExtend 10) ∧
  decode 0x100 = .init ∧ decode 0x1ff = .init ∧ decode 0x161 = .init ∧
  decode 0x261 = .update 0x61 ∧ decode 0x061 = .nop

/-- The command words that spec/95_test_vectors.md section 7.1 writes out, bits 9:8 and then bits 7:0. -/
def Obligations.DecodesWrittenOutWords : Prop :=
  decode (0b00#2 ++ 0b00000000#8) = .nop ∧ decode (0b00#2 ++ 0b01100001#8) = .nop ∧
  decode (0b01#2 ++ 0b00000000#8) = .init ∧ decode (0b01#2 ++ 0b11111111#8) = .init ∧
  decode (0b10#2 ++ 0b00000000#8) = .update 0x00 ∧ decode (0b10#2 ++ 0b01100001#8) = .update 0x61 ∧
  decode (0b10#2 ++ 0b10000000#8) = .update 0x80 ∧ decode (0b10#2 ++ 0b11111111#8) = .update 0xff ∧
  decode (0b11#2 ++ 0b00000000#8) = .final ∧ decode (0b11#2 ++ 0b10100101#8) = .final

/-- The text form of R87: the line that spells a command reads back as it, with any comment after it. That the line writes
UPDATE's digits in lower case is the model's choice (entry 9 of the assumption log). -/
def Obligations.TextLineReadsBack : Prop :=
  ∀ (i : Instr) (comment : List Char),
    parseLine (printLine i) = .ok i ∧
    parseLine (printLine i ++ ' ' :: ';' :: comment) = .ok i

/-! ## The buffer and the byte orders -/

/-- A buffer write replaces one byte, changes no other, and keeps the canonical form (R51). -/
def Obligations.BufferWriteReplacesOneByte : Prop :=
  ∀ (m : Memory) (i : FillIndex) (b : Byte), m.wf = true →
    (m.write i.toNat b).wf = true ∧
    ∀ a, (m.write i.toNat b).read a = if a = i.toNat then b else m.read a

/-- R52, whole. -/
def Obligations.BlockWordsAreBigEndian : Prop :=
  (∀ (m : Memory) (j : Nat), j < 16 →
    bufWord m j = m.read (4 * j) ++ m.read (4 * j + 1) ++ m.read (4 * j + 2) ++ m.read (4 * j + 3) ∧
    (bufWord m j).toNat =
      (m.read (4 * j)).toNat * 2 ^ 24 + (m.read (4 * j + 1)).toNat * 2 ^ 16 +
        (m.read (4 * j + 2)).toNat * 2 ^ 8 + (m.read (4 * j + 3)).toNat) ∧
  (∀ m : Memory, m.read 0 = 0x61 → m.read 1 = 0x62 → m.read 2 = 0x63 → m.read 3 = 0x80 →
    bufWord m 0 = 0x61626380)

/-- R53: the serialization of H, byte by byte, and on the digest port. -/
def Obligations.DigestIsBigEndian : Prop :=
  (∀ (h : Vector Word 8) (i k : Nat) (hi : i < 8) (hk : k < 4),
    (serializeDigest h)[4 * i + k] = h[i].extractLsb' (24 - 8 * k) 8) ∧
  (∀ (d : Vector Byte 32) (i : Nat) (hi : i < 32), (digestPort d).extractLsb' (248 - 8 * i) 8 = d[i]) ∧
  (∀ h : Vector Word 8,
    digestPort (serializeDigest h) = h[0] ++ h[1] ++ h[2] ++ h[3] ++ h[4] ++ h[5] ++ h[6] ++ h[7])

/-- R54: after FINAL the last eight bytes of BUF, as its last COMPRESS read them, hold the message's length in bits,
big-endian. -/
def Obligations.LengthFieldIsBigEndian : Prop :=
  ∀ s : State, s.engine.buf.wf = true →
    ∃ t, exec .final s = .next t ∧
      (∀ i, i < 8 → t.engine.buf.read (56 + i) =
        (BitVec.ofNat 64 (8 * s.engine.cnt.toNat)).extractLsb' (56 - 8 * i) 8) ∧
      bufWord t.engine.buf 14 = (BitVec.ofNat 64 (8 * s.engine.cnt.toNat)).extractLsb' 32 32 ∧
      bufWord t.engine.buf 15 = (BitVec.ofNat 64 (8 * s.engine.cnt.toNat)).extractLsb' 0 32

/-! ## The schedule and the compression -/

/-- R120: SCHED_LOAD writes all sixteen words of the window from BUF and changes nothing else; COMPRESS starts with it. -/
def Obligations.ScheduleLoadFillsWindow : Prop :=
  ∀ e : Engine,
    (∀ (j : Nat) (hj : j < 16), e.schedLoad.w[j] = bufWord e.buf j) ∧
    e.schedLoad = { e with w := e.schedLoad.w } ∧
    e.compress = (Engine.rounds 64 e.schedLoad.workLoad).feedFwd

/-- R121: SCHED_STEP(t) rewrites one slot of the window from four different slots, all read before the write; it runs
once per round for t = 16 to 63, before ROUND(t), and not for t below 16. -/
def Obligations.ScheduleStepRewritesOneSlot : Prop :=
  (∀ (t : Nat) (e : Engine), 16 ≤ t → t ≤ 63 →
    (e.schedStep t).w[t % 16] =
      e.w[t % 16] + smallSigma0 e.w[(t + 1) % 16] + e.w[(t + 9) % 16] + smallSigma1 e.w[(t + 14) % 16] ∧
    (∀ (k : Nat) (hk : k < 16), k ≠ t % 16 → (e.schedStep t).w[k] = e.w[k]) ∧
    e.schedStep t = { e with w := (e.schedStep t).w } ∧
    [t % 16, (t + 1) % 16, (t + 9) % 16, (t + 14) % 16].Nodup) ∧
  (∀ (t : Nat) (e : Engine), t < 64 →
    Engine.rounds (t + 1) e =
      (if 16 ≤ t then (Engine.rounds t e).schedStep t else Engine.rounds t e).round t)

/-- R123: the circular schedule gives the words of the direct one, and leaves the last sixteen in the window. -/
def Obligations.CircularScheduleEqualsDirect : Prop :=
  ∀ e : Engine,
    (∀ t, t < 64 → e.schedWord t = directWord (bufWord e.buf) t) ∧
    (∀ (i : Nat) (hi : i < 16),
      (Engine.rounds 64 e.compressStart).w[i] = directWord (bufWord e.buf) (48 + i))

/-- The recurrence that the direct schedule of R123 is defined by. -/
def Obligations.DirectScheduleRecurrence : Prop :=
  ∀ block : Nat → Word,
    (∀ t, t < 16 → directWord block t = block t) ∧
    (∀ t, 16 ≤ t → t < 64 →
      directWord block t =
        directWord block (t - 16) + smallSigma0 (directWord block (t - 15)) + directWord block (t - 7) +
          smallSigma1 (directWord block (t - 2)))

/-- R130 and R132: WORK_LOAD copies H to a..h, FEEDFWD adds a..h to H, and neither changes anything else; COMPRESS runs
the one before its 64 rounds and the other after them, and H is still what it was when FEEDFWD starts. -/
def Obligations.WorkLoadAndFeedForward : Prop :=
  ∀ e : Engine,
    e.workLoad =
      { e with work := ⟨e.h[0], e.h[1], e.h[2], e.h[3], e.h[4], e.h[5], e.h[6], e.h[7]⟩ } ∧
    e.feedFwd =
      { e with h := #v[e.h[0] + e.work.a, e.h[1] + e.work.b, e.h[2] + e.work.c, e.h[3] + e.work.d,
        e.h[4] + e.work.e, e.h[5] + e.work.f, e.h[6] + e.work.g, e.h[7] + e.work.h] } ∧
    (Engine.rounds 64 e.schedLoad.workLoad).h = e.h ∧
    e.compress = (Engine.rounds 64 e.schedLoad.workLoad).feedFwd

/-- R131: one round, every right-hand side the value before it; only a and e take new values; nothing but a..h
changes. With the example of the rule. -/
def Obligations.RoundMixesWorkingRegisters : Prop :=
  (∀ (t : Nat) (e : Engine), t ≤ 63 →
    let x := e.work
    let t1 := x.h + bigSigma1 x.e + ch x.e x.f x.g + roundConst t + e.w[t % 16]
    let t2 := bigSigma0 x.a + maj x.a x.b x.c
    e.round t = { e with work := ⟨t1 + t2, x.a, x.b, x.c, x.d + t1, x.e, x.f, x.g⟩ }) ∧
  (Work.ofVector iv).mix (roundConst 0) 0x61626380 =
    ⟨0x5d6aebcd, 0x6a09e667, 0xbb67ae85, 0x3c6ef372, 0xfa2a4622, 0x510e527f, 0x9b05688c, 0x1f83d9ab⟩

/-- R133: COMPRESS is its micro-operations in order, and `Compress(H, BUF)` on the prior HashState and the 64 buffer bytes
alone, with W and a..h its scratch, and changes nothing else. -/
def Obligations.CompressIsFunctionOfHashAndBuffer : Prop :=
  (∀ e : Engine,
    e.compress = (Engine.rounds 64 e.schedLoad.workLoad).feedFwd ∧
    e.compress = { e with
      h := compressBlock e.h e.buf.read
      work := refRounds e.h (directWord (blockWord e.buf.read)) 64
      w := Vector.ofFn fun i : Fin 16 => directWord (blockWord e.buf.read) (48 + i.val) }) ∧
  (∀ (h : Vector Word 8) (b c : Nat → Byte), (∀ k, k < 64 → b k = c k) → compressBlock h b = compressBlock h c) ∧
  (∀ (h : Vector Word 8) (b : Nat → Byte),
    compressBlock h b = feedForward h (refRounds h (directWord (blockWord b)) 64))

/-- R134: in the rotating-register form the logical register r is in slot (r - t) mod 8 after t rounds, register for
register, and the HashState after FEEDFWD is the same. -/
def Obligations.RotatingRegisterFormIsEquivalent : Prop :=
  (∀ (h : Vector Word 8) (w : Nat → Word) (t : Nat), t ≤ 64 →
    let p := rotatingRounds h w t
    let x := refRounds h w t
    ∀ (r : Nat) (hr : r < 8),
      p[(r + 7 * t) % 8] = #v[x.a, x.b, x.c, x.d, x.e, x.f, x.g, x.h][r]) ∧
  (∀ (h : Vector Word 8) (b : Nat → Byte),
    rotatingCompress h (directWord (blockWord b)) = compressBlock h b) ∧
  (∀ e : Engine, rotatingCompress e.h e.schedWord = e.compress.h)

/-! ## The commands -/

/-- R151: NOP completes in every state and changes no field, whatever its data bits; an edge at which no command is
presented to a ready engine leaves it as it is too. A busy engine is in NothingAcceptedNothingChanges. -/
def Obligations.NopChangesNothing : Prop :=
  (∀ s : State, exec .nop s = .next s) ∧
  (∀ c : Cmd, c.extractLsb' 8 2 = 0 → decode c = .nop) ∧
  (∀ s : State, s.nowPins.rst = false → s.nowPins.cmdValid = false → s.cmdReady = true →
    ∃ t, step s = .next t ∧ t.engine = s.engine)

/-- R152: INIT completes in every state, sets H, CNT, FILL and CTX and nothing else; the last step of FINAL and reset
give the context the same values. -/
def Obligations.InitMakesContextFresh : Prop :=
  (∀ s : State,
    exec .init s = .next { s with engine := { s.engine with h := iv, cnt := 0, fill := 0, ctx := .fresh } }) ∧
  (∀ c : Cmd, c.extractLsb' 8 2 = 1 → decode c = .init) ∧
  (∀ s : State, ∃ t, exec .final s = .next t ∧ t.engine.IsFresh) ∧
  (∀ n : Nat, (Engine.resetAt n).IsFresh)

/-- R153: PUSH below index 63 and at index 63. -/
def Obligations.PushAppendsOneByte : Prop :=
  ∀ (b : Byte) (e : Engine),
    (e.fill ≠ 63 → e.push b = { e with buf := e.buf.write e.fill.toNat b, fill := e.fill + 1 }) ∧
    (e.fill = 63 →
      e.push b = { ({ e with buf := e.buf.write 63 b } : Engine).compress with fill := 0 } ∧
      (e.push b).h = compressBlock e.h (e.buf.write 63 b).read) ∧
    (e.push b).cnt = e.cnt

/-- R154: UPDATE completes in every state, and the whole next state, with no COMPRESS when FILL is below 63 and with
exactly one when FILL is 63. -/
def Obligations.UpdateTakesOneByte : Prop :=
  ∀ (d : Byte) (s : State),
    let e := s.engine
    let block := (e.buf.write 63 d).read
    (e.fill ≠ 63 →
      exec (.update d) s = .next { s with engine := { e with
        cnt := e.cnt + 1, buf := e.buf.write e.fill.toNat d, fill := e.fill + 1, ctx := .accum } }) ∧
    (e.fill = 63 →
      exec (.update d) s = .next { s with engine := { e with
        cnt := e.cnt + 1, buf := e.buf.write 63 d, fill := 0, ctx := .accum
        h := compressBlock e.h block
        work := refRounds e.h (directWord (blockWord block)) 64
        w := Vector.ofFn fun i : Fin 16 => directWord (blockWord block) (48 + i.val) } }) ∧
    (∀ c : Cmd, c.extractLsb' 8 2 = 2 → decode c = .update (c.extractLsb' 0 8))

/-- The frame of UPDATE: of BUF it writes the byte at FILL and no other; it does not touch DIGEST, DV, the handshake or
the pins; H, W and a..h change only when it fills the buffer. -/
def Obligations.UpdateFrame : Prop :=
  ∀ (d : Byte) (s : State), s.engine.buf.wf = true →
    ∃ t, exec (.update d) s = .next t ∧
      (∀ a, a ≠ s.engine.pushAddress → t.engine.buf.read a = s.engine.buf.read a) ∧
      t.engine.buf.read s.engine.pushAddress = d ∧
      t.engine.digest = s.engine.digest ∧ t.engine.dv = s.engine.dv ∧
      (s.engine.fill ≠ 63 →
        t.engine.h = s.engine.h ∧ t.engine.w = s.engine.w ∧ t.engine.work = s.engine.work) ∧
      t = { s with engine := t.engine }

/-- R156: FINAL pushes 0x80, then z = (55 - f) mod 64 zero bytes, then the eight length bytes; z is the least count that
brings the total to a multiple of 64; the zero loop ends with FILL = 56. -/
def Obligations.FinalPaddingCounts : Prop :=
  ∀ e : Engine,
    let f := e.fill.toNat
    let z := zeroCount f
    e.pad = Engine.pushAll
      (0x80 :: (List.replicate z 0x00 ++ lengthBytes (BitVec.ofNat 64 (8 * e.cnt.toNat)))) e ∧
    (Engine.padZeros 63 (e.push 0x80)).fill = 56 ∧ z ≤ 63 ∧
    (f ≤ 55 → z = 55 - f) ∧ (56 ≤ f → z = 119 - f) ∧
    (f + (1 + z + 8)) % 64 = 0 ∧ ∀ y, y < z → (f + (1 + y + 8)) % 64 ≠ 0

/-- R155: FINAL completes; the blocks it compresses, the digest it emits, the context it leaves, and the contents of BUF.
One COMPRESS when FILL is at most 55, two when it is 56 or more. The premise is the first clause of State.Inv. -/
def Obligations.FinalPadsAndEmitsDigest : Prop :=
  ∀ s : State, s.engine.buf.wf = true →
    let e := s.engine
    let f := e.fill.toNat
    let lenByte : Nat → Byte := fun k => (BitVec.ofNat 64 (8 * e.cnt.toNat)).extractLsb' (8 * (63 - k)) 8
    let only : Nat → Byte := fun k =>
      if k < f then e.buf.read k else if k = f then 0x80 else if k < 56 then 0x00 else lenByte k
    let first : Nat → Byte := fun k => if k < f then e.buf.read k else if k = f then 0x80 else 0x00
    let last : Nat → Byte := fun k => if k < 56 then 0x00 else lenByte k
    ∃ t, exec .final s = .next t ∧
      t = { s with engine := t.engine } ∧ t.engine.IsFresh ∧ t.engine.dv = true ∧
      (f ≤ 55 →
        t.engine.digest = serializeDigest (compressBlock e.h only) ∧
        ∀ k, k < 64 → t.engine.buf.read k = only k) ∧
      (56 ≤ f →
        t.engine.digest = serializeDigest (compressBlock (compressBlock e.h first) last) ∧
        ∀ k, k < 64 → t.engine.buf.read k = last k)

/-- The frame of FINAL on BUF: it stores to the bytes from FILL to 63 when FILL is at most 55, and to every byte when
FILL is 56 or more; every other address reads as before. It leaves the handshake and the pins alone. -/
def Obligations.FinalFrame : Prop :=
  ∀ s : State, s.engine.buf.wf = true →
    ∃ t, exec .final s = .next t ∧
      (s.engine.pushAddress ≤ 55 → ∀ a, a < s.engine.pushAddress ∨ 64 ≤ a →
        t.engine.buf.read a = s.engine.buf.read a) ∧
      (∀ a, 64 ≤ a → t.engine.buf.read a = s.engine.buf.read a) ∧
      t.busy = s.busy ∧ t.pins = s.pins ∧ t.edge = s.edge

/-- R163: FINAL on a Fresh context gives the digest of the empty message, from one block of 0x80 and 63 zero bytes. -/
def Obligations.EmptyMessageDigest : Prop :=
  ∀ s : State, s.engine.buf.wf = true → s.engine.IsFresh →
    ∃ t, exec .final s = .next t ∧ t.engine.dv = true ∧
      digestPort t.engine.digest = 0xe3b0c44298fc1c149afbf4c8996fb92427ae41e4649b934ca495991b7852b855 ∧
      t.engine.buf.read 0 = 0x80 ∧ ∀ k, 0 < k → k < 64 → t.engine.buf.read k = 0x00

/-- R164: CNT counts the UPDATE commands modulo 2^64 and FILL modulo 64, nothing stops at the wrap, and the length field
keeps the low 64 bits of the bit count. -/
def Obligations.CounterWrapsSilently : Prop :=
  (∀ (m : List Byte) (s : State),
    ∃ t, runCommands (updateCommands m) s = .next t ∧
      t.engine.cnt = s.engine.cnt + BitVec.ofNat 64 m.length ∧
      t.engine.fill = s.engine.fill + BitVec.ofNat 6 m.length) ∧
  (∀ (d : Byte) (s : State), s.engine.cnt = BitVec.ofNat 64 (2 ^ 64 - 1) →
    ∃ t, exec (.update d) s = .next t ∧ t.engine.cnt = 0) ∧
  (∀ n : Nat, messageLength (BitVec.ofNat 64 n) = BitVec.ofNat 64 (8 * n)) ∧
  messageLength (BitVec.ofNat 64 (2 ^ 61 + 3)) = 0x0000000000000018

/-- R162: the length bytes of a 32-byte and of an 80-byte message come from the same product as every other length. -/
def Obligations.LengthIsNeverHardcoded : Prop :=
  (∀ e : Engine, e.pad =
    Engine.pushAll (lengthBytes (BitVec.ofNat 64 (e.cnt.toNat * 8))) (Engine.padZeros 63 (e.push 0x80))) ∧
  lengthBytes (messageLength 32) = [0x00, 0x00, 0x00, 0x00, 0x00, 0x00, 0x01, 0x00] ∧
  lengthBytes (messageLength 80) = [0x00, 0x00, 0x00, 0x00, 0x00, 0x00, 0x02, 0x80]

/-- The table of R150, and reset. -/
def Obligations.ContextStateTransitions : Prop :=
  ∀ s : State,
    (∃ t, exec .nop s = .next t ∧ t.engine.ctx = s.engine.ctx) ∧
    (∃ t, exec .init s = .next t ∧ t.engine.ctx = .fresh) ∧
    (∀ d, ∃ t, exec (.update d) s = .next t ∧ t.engine.ctx = .accum) ∧
    (∃ t, exec .final s = .next t ∧ t.engine.ctx = .fresh) ∧
    (s.nowPins.rst = true → ∃ t, step s = .next t ∧ t.engine.ctx = .fresh)

/-- R28: CTX is a status bit only. Two machines that differ in nothing but CTX run every command to states that differ
in nothing but CTX. FRESH is 0 and ACCUM is 1. -/
def Obligations.ContextBitFeedsNoData : Prop :=
  (∀ (i : Instr) (s : State) (c : Ctx),
    ∃ t u, exec i s = .next t ∧ exec i (s.withEngine (s.engine.setCtx c)) = .next u ∧
      u = t.withEngine (t.engine.setCtx u.engine.ctx)) ∧
  Ctx.fresh.bit = false ∧ Ctx.accum.bit = true

/-- R29: DIGEST and DV are written by FINAL and by reset alone; DV is 0 after reset, 1 after FINAL, and stays 1 until a
reset. That FINAL's digest and DV stand at the very edge that accepts it, and that no busy edge changes them, is the
model's choice (entry 6 of the assumption log): the spec fixes them only from FINAL's completion on. -/
def Obligations.DigestHeldUntilNextFinal : Prop :=
  (∀ s t : State, step s = .next t → s.nowPins.rst = false →
    (s.accepts = false ∨ decode s.nowPins.cmd ≠ .final) →
      t.engine.digest = s.engine.digest ∧ t.engine.dv = s.engine.dv) ∧
  (∀ s t : State, step s = .next t → s.nowPins.rst = false → s.accepts = true →
    decode s.nowPins.cmd = .final →
      t.engine.digest = serializeDigest s.engine.pad.h ∧ t.engine.dv = true) ∧
  (∀ s t : State, step s = .next t → s.nowPins.rst = true → t.engine.dv = false) ∧
  State.reset.engine.dv = false

/-! ## Messages -/

/-- R38: what an engine that has taken exactly the bytes m holds (Engine.Absorbed: I1 to I5), and that every command and
every reset keeps it. Canonical form of BUF is the premise, which the commands keep too. -/
def Obligations.CommandsKeepMessageInvariant : Prop :=
  (∀ (s : State) (m : List Byte), s.engine.buf.wf = true → s.engine.Absorbed m →
    (∃ t, exec .nop s = .next t ∧ t.engine.buf.wf = true ∧ t.engine.Absorbed m) ∧
    (∃ t, exec .init s = .next t ∧ t.engine.buf.wf = true ∧ t.engine.Absorbed []) ∧
    (∀ d, ∃ t, exec (.update d) s = .next t ∧ t.engine.buf.wf = true ∧ t.engine.Absorbed (m ++ [d])) ∧
    (∃ t, exec .final s = .next t ∧ t.engine.buf.wf = true ∧ t.engine.Absorbed [])) ∧
  (∀ n : Nat, (Engine.resetAt n).buf.wf = true ∧ (Engine.resetAt n).Absorbed [])

/-- Every step keeps State.Inv: BUF stays in its canonical form, the engine holds the state of some message (R38), and a
valid DIGEST is the hash of some message (R158). R38 speaks of the cycles with cmd_ready = 1; that it holds on busy edges
too is the model's choice (entry 6 of the assumption log), as is the canonical form (entry 2). -/
def Obligations.EveryStepKeepsInvariant : Prop :=
  ∀ s t : State, s.Inv → step s = .next t → t.Inv

/-- State.Inv holds right after reset. -/
def Obligations.ResetMeetsInvariant : Prop :=
  State.reset.Inv

/-- R158: from every state, INIT, the bytes of m and FINAL, with NOP commands anywhere, leave `Hash(m)` in DIGEST; and
from a Fresh context the INIT may be left out. -/
def Obligations.DigestIsHashOfMessage : Prop :=
  ∀ (m : List Byte) (s : State) (l : List Instr), s.engine.buf.wf = true →
    (l.filter (fun i => decide (i ≠ .nop)) = .init :: (m.map Instr.update ++ [.final]) ∨
      (s.engine.IsFresh ∧ l.filter (fun i => decide (i ≠ .nop)) = m.map Instr.update ++ [.final])) →
    ∃ t, runCommands l s = .next t ∧ t.engine.digest = hashMessage m ∧ t.engine.dv = true ∧ t.engine.IsFresh

/-- FINAL on an engine that has taken the bytes m emits `Hash(m)` (R38, R158). -/
def Obligations.FinalEmitsHashOfAbsorbedMessage : Prop :=
  ∀ (s : State) (m : List Byte), s.engine.buf.wf = true → s.engine.Absorbed m →
    ∃ t, exec .final s = .next t ∧ t.engine.digest = hashMessage m ∧ t.engine.dv = true

/-- R159: after FINAL the context has exactly the values INIT gives, and a second message needs no INIT;
reset gives the context these values too. -/
def Obligations.ContextReusableAfterFinal : Prop :=
  (∀ s : State, ∃ t u, exec .final s = .next t ∧ exec .init s = .next u ∧
    t.engine.h = u.engine.h ∧ t.engine.cnt = u.engine.cnt ∧ t.engine.fill = u.engine.fill ∧
    t.engine.ctx = u.engine.ctx) ∧
  (∀ n : Nat, (Engine.resetAt n).IsFresh) ∧
  (∀ (s : State) (m : List Byte), s.engine.buf.wf = true →
    ∃ t, runCommands (.final :: (m.map Instr.update ++ [.final])) s = .next t ∧
      t.engine.digest = hashMessage m ∧ t.engine.dv = true)

/-- R89 and R160: only the sequence of data bytes matters: not how `update` calls split it, not NOP commands among the
commands, not idle edges of a ready engine. A busy engine is in NothingAcceptedNothingChanges. -/
def Obligations.OnlyTheByteSequenceMatters : Prop :=
  (∀ chunks : List (List Byte),
    (chunks.map fun c => expand (.apiUpdate c)).flatten = expand (.apiUpdate chunks.flatten)) ∧
  (∀ (l : List Instr) (s : State), runCommands l s = runCommands (l.filter (fun i => decide (i ≠ .nop))) s) ∧
  (∀ s : State, s.nowPins.rst = false → s.cmdReady = true → s.accepts = false →
    ∃ t, step s = .next t ∧ t.engine = s.engine)

/-- R161: the double hash of any message, through the digest the engine emits. -/
def Obligations.DoubleHashIsHashOfHash : Prop :=
  ∀ (m : List Byte) (s : State), s.engine.buf.wf = true →
    ∃ t, doubleHash m s = .next t ∧ t.engine.digest = hashMessage (hashMessage m).toList ∧ t.engine.dv = true

/-- R67: no stale or unspecified byte reaches a result. Two engines that agree but for W, a..h and the bytes of BUF at
FILL and above run every command to engines that agree so again, the digest included. -/
def Obligations.StaleStateNeverMatters : Prop :=
  ∀ (i : Instr) (s r : State), s.engine.buf.wf = true → r.engine.buf.wf = true →
    s.engine.SameButStale r.engine →
    ∃ t u, exec i s = .next t ∧ exec i r = .next u ∧ t.engine.SameButStale u.engine

/-! ## The clock edge, the handshake and reset -/

/-- A command that is presented to a ready engine is accepted (R32), and the step is exec of the decoded command. What
stands around exec is the model's choice: the whole effect stands after the accepting edge, with cmd_ready low behind it
for the command's latency (entry 6 of the assumption log); the pins of the edge are consumed (entry 3); the edges are
numbered on (entry 4). The second clause says the same of a word of the opcode table that withFetchWord presents, by
setting the pins of the next edge and cmd_ready to 1 (entry 3). -/
def Obligations.StepRunsAcceptedCommand : Prop :=
  (∀ (s t : State) (p : Pins) (rest : List Pins),
    s.pins = p :: rest → p.rst = false → p.cmdValid = true → s.busy = 0 →
    exec (decode p.cmd) { s with pins := rest, edge := s.edge + 1 } = .next t →
    step s = .next { t with busy := latencyOf (decode p.cmd) s.edge }) ∧
  (∀ (s t : State) (nbits w : Nat) (i : Instr),
    decodeTableWord nbits w = some i →
    exec i { s with pins := s.pins.tail, busy := 0, edge := s.edge + 1 } = .next t →
    step (s.withFetchWord nbits w) = .next { t with busy := latencyOf i s.edge })

/-- An edge at which rst is 0 and no command is accepted: the engine keeps its state (R32, R190). For a busy engine that
is more than R32 says: that it stays as it is while a command is in progress, and that the command comes one edge nearer
to its end, is the model's choice (entry 6 of the assumption log), and so are the consumed pins (entry 3) and the edge's
number (entry 4). A command presented while cmd_ready is 0 is not accepted. -/
def Obligations.NothingAcceptedNothingChanges : Prop :=
  (∀ s : State, s.nowPins.rst = false → s.accepts = false →
    step s = .next { s with busy := s.busy - 1, pins := s.pins.tail, edge := s.edge + 1 }) ∧
  (∀ s : State, 0 < s.busy → s.accepts = false) ∧
  (∀ s : State, s.nowPins.cmdValid = false → s.accepts = false)

/-- R183, R200 and R201: rst = 1 wins over everything, at any point of any command; the fields that R39 gives a value
take it, DV is 0, cmd_ready is 1, and the context is as INIT leaves it. Nothing is
assumed of the engine or of how long it was still to be busy, so a command in progress is cut short; the fields that
R39 leaves unspecified are not stated. cmd_ready is stated for the first cycle in which rst is 0 again. That the
pins of the edge are consumed is the model's choice (entry 3 of the assumption log). -/
def Obligations.ResetWinsAndResets : Prop :=
  ∀ s : State, s.nowPins.rst = true →
    s.accepts = false ∧
    ∃ t, step s = .next t ∧
      t.engine.h = iv ∧ t.engine.cnt = 0 ∧ t.engine.fill = 0 ∧ t.engine.ctx = .fresh ∧ t.engine.dv = false ∧
      (t.nowPins.rst = false → t.cmdReady = true) ∧ t.pins = s.pins.tail ∧
      (t.nowPins.rst = false → t.nowPins.cmdValid = true → t.accepts = true) ∧
      ∀ r u, exec .init r = .next u →
        t.engine.h = u.engine.h ∧ t.engine.cnt = u.engine.cnt ∧ t.engine.fill = u.engine.fill ∧
          t.engine.ctx = u.engine.ctx

/-- The fields of State.reset to which R39's table gives a value; what it leaves unspecified is not stated. -/
def Obligations.ResetStateValues : Prop :=
  State.reset.engine.h = iv ∧ State.reset.engine.cnt = 0 ∧ State.reset.engine.fill = 0 ∧
    State.reset.engine.ctx = .fresh ∧ State.reset.engine.dv = false ∧ State.reset.cmdReady = true

/-- R180: there is no exception. Every command completes in every state, every step gives a next state, and the fault
type has no constructor. -/
def Obligations.EveryCommandCompletes : Prop :=
  (∀ (i : Instr) (s : State), ∃ t, exec i s = .next t ∧ t = { s with engine := t.engine }) ∧
  (∀ s : State, ∃ t, step s = .next t) ∧
  (∀ _r : Fault, False)

/-- cmd_ready returns to 1 after as many edges as the command in progress still takes, provided rst stays 0 (R209). The
model's choices are: that the engine keeps its state meanwhile, and the count itself (entry 6 of the assumption log);
that a host whose listed pins end sooner is idle from there on, so that rst stays 0 (entry 3); the number of the edge
(entry 4). -/
def Obligations.CommandInProgressEnds : Prop :=
  ∀ s : State, (∀ p, p ∈ s.pins.take s.busy → p.rst = false) →
    ∃ t : State, Host.Core.run Sys2Proof.core s.busy s = .next t ∧
      t.cmdReady = true ∧ t.engine = s.engine ∧ t.pins = s.pins.drop s.busy ∧ t.edge = s.edge + s.busy

/-- A command presented while cmd_ready is 0, and held, waits and is accepted at the first edge at which the engine is
ready: it is not lost (R181, R206). That the engine keeps its state over the busy edges is the model's choice (entry 6 of
the assumption log). -/
def Obligations.HeldCommandIsAccepted : Prop :=
  ∀ (s : State) (p : Pins) (rest : List Pins),
    p.rst = false → p.cmdValid = true → s.pins = List.replicate (s.busy + 1) p ++ rest →
    ∃ t : State, Host.Core.run Sys2Proof.core s.busy s = .next t ∧
      t.accepts = true ∧ t.nowPins = p ∧ t.engine = s.engine

/-- What the ports show in a cycle with cmd_ready = 1 and rst = 0 (R31, R33); digest while digest_valid is 1. In a cycle
with rst = 1 the spec does not give cmd_ready: the first clause says what the model shows there too, and the last that it
is 1 after an edge with rst = 1 even while rst is held (entry 14 of the assumption log, the model's choice). -/
def Obligations.OutputsShowStatus : Prop :=
  ∀ s : State,
    (s.outputs.cmdReady = true ↔ s.busy = 0) ∧
    (s.cmdReady = true → s.nowPins.rst = false →
      s.outputs.digestValid = s.engine.dv ∧
      (s.outputs.ctxAccum = true ↔ s.engine.ctx = .accum) ∧
      (s.engine.dv = true → s.digestUsable = true)) ∧
    (s.digestUsable = true → ∀ (i : Nat) (hi : i < 32),
      s.outputs.digest.extractLsb' (248 - 8 * i) 8 = s.engine.digest[i]) ∧
    (s.nowPins.rst = true → ∃ t, step s = .next t ∧ t.outputs.cmdReady = true)
end

