-- ==== Sys2Proof/Laws/State.lean ====
section
/-! SUPPORT. One lemma per field per update of the state, each true by unfolding the update, so that no proof need do it
again. -/

namespace Sys2Proof.Machine

section Engine
variable (e : Engine)

@[simp] theorem Engine.setH_h (v : Vector Word 8) : (e.setH v).h = v := rfl
@[simp] theorem Engine.setH_work (v : Vector Word 8) : (e.setH v).work = e.work := rfl
@[simp] theorem Engine.setH_w (v : Vector Word 8) : (e.setH v).w = e.w := rfl
@[simp] theorem Engine.setH_cnt (v : Vector Word 8) : (e.setH v).cnt = e.cnt := rfl
@[simp] theorem Engine.setH_fill (v : Vector Word 8) : (e.setH v).fill = e.fill := rfl
@[simp] theorem Engine.setH_buf (v : Vector Word 8) : (e.setH v).buf = e.buf := rfl
@[simp] theorem Engine.setH_ctx (v : Vector Word 8) : (e.setH v).ctx = e.ctx := rfl
@[simp] theorem Engine.setH_digest (v : Vector Word 8) : (e.setH v).digest = e.digest := rfl
@[simp] theorem Engine.setH_dv (v : Vector Word 8) : (e.setH v).dv = e.dv := rfl

@[simp] theorem Engine.setWork_h (v : Work) : (e.setWork v).h = e.h := rfl
@[simp] theorem Engine.setWork_work (v : Work) : (e.setWork v).work = v := rfl
@[simp] theorem Engine.setWork_w (v : Work) : (e.setWork v).w = e.w := rfl
@[simp] theorem Engine.setWork_cnt (v : Work) : (e.setWork v).cnt = e.cnt := rfl
@[simp] theorem Engine.setWork_fill (v : Work) : (e.setWork v).fill = e.fill := rfl
@[simp] theorem Engine.setWork_buf (v : Work) : (e.setWork v).buf = e.buf := rfl
@[simp] theorem Engine.setWork_ctx (v : Work) : (e.setWork v).ctx = e.ctx := rfl
@[simp] theorem Engine.setWork_digest (v : Work) : (e.setWork v).digest = e.digest := rfl
@[simp] theorem Engine.setWork_dv (v : Work) : (e.setWork v).dv = e.dv := rfl

@[simp] theorem Engine.setW_h (v : Vector Word 16) : (e.setW v).h = e.h := rfl
@[simp] theorem Engine.setW_work (v : Vector Word 16) : (e.setW v).work = e.work := rfl
@[simp] theorem Engine.setW_w (v : Vector Word 16) : (e.setW v).w = v := rfl
@[simp] theorem Engine.setW_cnt (v : Vector Word 16) : (e.setW v).cnt = e.cnt := rfl
@[simp] theorem Engine.setW_fill (v : Vector Word 16) : (e.setW v).fill = e.fill := rfl
@[simp] theorem Engine.setW_buf (v : Vector Word 16) : (e.setW v).buf = e.buf := rfl
@[simp] theorem Engine.setW_ctx (v : Vector Word 16) : (e.setW v).ctx = e.ctx := rfl
@[simp] theorem Engine.setW_digest (v : Vector Word 16) : (e.setW v).digest = e.digest := rfl
@[simp] theorem Engine.setW_dv (v : Vector Word 16) : (e.setW v).dv = e.dv := rfl

@[simp] theorem Engine.setCnt_h (v : Count) : (e.setCnt v).h = e.h := rfl
@[simp] theorem Engine.setCnt_work (v : Count) : (e.setCnt v).work = e.work := rfl
@[simp] theorem Engine.setCnt_w (v : Count) : (e.setCnt v).w = e.w := rfl
@[simp] theorem Engine.setCnt_cnt (v : Count) : (e.setCnt v).cnt = v := rfl
@[simp] theorem Engine.setCnt_fill (v : Count) : (e.setCnt v).fill = e.fill := rfl
@[simp] theorem Engine.setCnt_buf (v : Count) : (e.setCnt v).buf = e.buf := rfl
@[simp] theorem Engine.setCnt_ctx (v : Count) : (e.setCnt v).ctx = e.ctx := rfl
@[simp] theorem Engine.setCnt_digest (v : Count) : (e.setCnt v).digest = e.digest := rfl
@[simp] theorem Engine.setCnt_dv (v : Count) : (e.setCnt v).dv = e.dv := rfl

@[simp] theorem Engine.setFill_h (v : FillIndex) : (e.setFill v).h = e.h := rfl
@[simp] theorem Engine.setFill_work (v : FillIndex) : (e.setFill v).work = e.work := rfl
@[simp] theorem Engine.setFill_w (v : FillIndex) : (e.setFill v).w = e.w := rfl
@[simp] theorem Engine.setFill_cnt (v : FillIndex) : (e.setFill v).cnt = e.cnt := rfl
@[simp] theorem Engine.setFill_fill (v : FillIndex) : (e.setFill v).fill = v := rfl
@[simp] theorem Engine.setFill_buf (v : FillIndex) : (e.setFill v).buf = e.buf := rfl
@[simp] theorem Engine.setFill_ctx (v : FillIndex) : (e.setFill v).ctx = e.ctx := rfl
@[simp] theorem Engine.setFill_digest (v : FillIndex) : (e.setFill v).digest = e.digest := rfl
@[simp] theorem Engine.setFill_dv (v : FillIndex) : (e.setFill v).dv = e.dv := rfl

@[simp] theorem Engine.setBuf_h (v : Memory) : (e.setBuf v).h = e.h := rfl
@[simp] theorem Engine.setBuf_work (v : Memory) : (e.setBuf v).work = e.work := rfl
@[simp] theorem Engine.setBuf_w (v : Memory) : (e.setBuf v).w = e.w := rfl
@[simp] theorem Engine.setBuf_cnt (v : Memory) : (e.setBuf v).cnt = e.cnt := rfl
@[simp] theorem Engine.setBuf_fill (v : Memory) : (e.setBuf v).fill = e.fill := rfl
@[simp] theorem Engine.setBuf_buf (v : Memory) : (e.setBuf v).buf = v := rfl
@[simp] theorem Engine.setBuf_ctx (v : Memory) : (e.setBuf v).ctx = e.ctx := rfl
@[simp] theorem Engine.setBuf_digest (v : Memory) : (e.setBuf v).digest = e.digest := rfl
@[simp] theorem Engine.setBuf_dv (v : Memory) : (e.setBuf v).dv = e.dv := rfl

@[simp] theorem Engine.setCtx_h (v : Ctx) : (e.setCtx v).h = e.h := rfl
@[simp] theorem Engine.setCtx_work (v : Ctx) : (e.setCtx v).work = e.work := rfl
@[simp] theorem Engine.setCtx_w (v : Ctx) : (e.setCtx v).w = e.w := rfl
@[simp] theorem Engine.setCtx_cnt (v : Ctx) : (e.setCtx v).cnt = e.cnt := rfl
@[simp] theorem Engine.setCtx_fill (v : Ctx) : (e.setCtx v).fill = e.fill := rfl
@[simp] theorem Engine.setCtx_buf (v : Ctx) : (e.setCtx v).buf = e.buf := rfl
@[simp] theorem Engine.setCtx_ctx (v : Ctx) : (e.setCtx v).ctx = v := rfl
@[simp] theorem Engine.setCtx_digest (v : Ctx) : (e.setCtx v).digest = e.digest := rfl
@[simp] theorem Engine.setCtx_dv (v : Ctx) : (e.setCtx v).dv = e.dv := rfl

@[simp] theorem Engine.setDigest_h (v : Vector Byte 32) : (e.setDigest v).h = e.h := rfl
@[simp] theorem Engine.setDigest_work (v : Vector Byte 32) : (e.setDigest v).work = e.work := rfl
@[simp] theorem Engine.setDigest_w (v : Vector Byte 32) : (e.setDigest v).w = e.w := rfl
@[simp] theorem Engine.setDigest_cnt (v : Vector Byte 32) : (e.setDigest v).cnt = e.cnt := rfl
@[simp] theorem Engine.setDigest_fill (v : Vector Byte 32) : (e.setDigest v).fill = e.fill := rfl
@[simp] theorem Engine.setDigest_buf (v : Vector Byte 32) : (e.setDigest v).buf = e.buf := rfl
@[simp] theorem Engine.setDigest_ctx (v : Vector Byte 32) : (e.setDigest v).ctx = e.ctx := rfl
@[simp] theorem Engine.setDigest_digest (v : Vector Byte 32) : (e.setDigest v).digest = v := rfl
@[simp] theorem Engine.setDigest_dv (v : Vector Byte 32) : (e.setDigest v).dv = e.dv := rfl

@[simp] theorem Engine.setDv_h (v : Bool) : (e.setDv v).h = e.h := rfl
@[simp] theorem Engine.setDv_work (v : Bool) : (e.setDv v).work = e.work := rfl
@[simp] theorem Engine.setDv_w (v : Bool) : (e.setDv v).w = e.w := rfl
@[simp] theorem Engine.setDv_cnt (v : Bool) : (e.setDv v).cnt = e.cnt := rfl
@[simp] theorem Engine.setDv_fill (v : Bool) : (e.setDv v).fill = e.fill := rfl
@[simp] theorem Engine.setDv_buf (v : Bool) : (e.setDv v).buf = e.buf := rfl
@[simp] theorem Engine.setDv_ctx (v : Bool) : (e.setDv v).ctx = e.ctx := rfl
@[simp] theorem Engine.setDv_digest (v : Bool) : (e.setDv v).digest = e.digest := rfl
@[simp] theorem Engine.setDv_dv (v : Bool) : (e.setDv v).dv = v := rfl

@[simp] theorem Engine.markFresh_h : e.markFresh.h = e.h := rfl
@[simp] theorem Engine.markFresh_work : e.markFresh.work = e.work := rfl
@[simp] theorem Engine.markFresh_w : e.markFresh.w = e.w := rfl
@[simp] theorem Engine.markFresh_cnt : e.markFresh.cnt = e.cnt := rfl
@[simp] theorem Engine.markFresh_fill : e.markFresh.fill = e.fill := rfl
@[simp] theorem Engine.markFresh_buf : e.markFresh.buf = e.buf := rfl
@[simp] theorem Engine.markFresh_ctx : e.markFresh.ctx = .fresh := rfl
@[simp] theorem Engine.markFresh_digest : e.markFresh.digest = e.digest := rfl
@[simp] theorem Engine.markFresh_dv : e.markFresh.dv = e.dv := rfl

@[simp] theorem Engine.markAccum_h : e.markAccum.h = e.h := rfl
@[simp] theorem Engine.markAccum_work : e.markAccum.work = e.work := rfl
@[simp] theorem Engine.markAccum_w : e.markAccum.w = e.w := rfl
@[simp] theorem Engine.markAccum_cnt : e.markAccum.cnt = e.cnt := rfl
@[simp] theorem Engine.markAccum_fill : e.markAccum.fill = e.fill := rfl
@[simp] theorem Engine.markAccum_buf : e.markAccum.buf = e.buf := rfl
@[simp] theorem Engine.markAccum_ctx : e.markAccum.ctx = .accum := rfl
@[simp] theorem Engine.markAccum_digest : e.markAccum.digest = e.digest := rfl
@[simp] theorem Engine.markAccum_dv : e.markAccum.dv = e.dv := rfl

@[simp] theorem Engine.markValid_h : e.markValid.h = e.h := rfl
@[simp] theorem Engine.markValid_work : e.markValid.work = e.work := rfl
@[simp] theorem Engine.markValid_w : e.markValid.w = e.w := rfl
@[simp] theorem Engine.markValid_cnt : e.markValid.cnt = e.cnt := rfl
@[simp] theorem Engine.markValid_fill : e.markValid.fill = e.fill := rfl
@[simp] theorem Engine.markValid_buf : e.markValid.buf = e.buf := rfl
@[simp] theorem Engine.markValid_ctx : e.markValid.ctx = e.ctx := rfl
@[simp] theorem Engine.markValid_digest : e.markValid.digest = e.digest := rfl
@[simp] theorem Engine.markValid_dv : e.markValid.dv = true := rfl

@[simp] theorem Engine.store_h (addr : Nat) (b : Byte) : (e.store addr b).h = e.h := rfl
@[simp] theorem Engine.store_work (addr : Nat) (b : Byte) : (e.store addr b).work = e.work := rfl
@[simp] theorem Engine.store_w (addr : Nat) (b : Byte) : (e.store addr b).w = e.w := rfl
@[simp] theorem Engine.store_cnt (addr : Nat) (b : Byte) : (e.store addr b).cnt = e.cnt := rfl
@[simp] theorem Engine.store_fill (addr : Nat) (b : Byte) : (e.store addr b).fill = e.fill := rfl
@[simp] theorem Engine.store_buf (addr : Nat) (b : Byte) : (e.store addr b).buf = e.buf.write addr b := rfl
@[simp] theorem Engine.store_ctx (addr : Nat) (b : Byte) : (e.store addr b).ctx = e.ctx := rfl
@[simp] theorem Engine.store_digest (addr : Nat) (b : Byte) : (e.store addr b).digest = e.digest := rfl
@[simp] theorem Engine.store_dv (addr : Nat) (b : Byte) : (e.store addr b).dv = e.dv := rfl

end Engine

section Reset
variable (d : Vector Byte 32) (m : Memory) (w : Vector Word 16) (x : Work)

@[simp] theorem Engine.afterReset_h : (Engine.afterReset d m w x).h = iv := rfl
@[simp] theorem Engine.afterReset_work : (Engine.afterReset d m w x).work = x := rfl
@[simp] theorem Engine.afterReset_w : (Engine.afterReset d m w x).w = w := rfl
@[simp] theorem Engine.afterReset_cnt : (Engine.afterReset d m w x).cnt = 0 := rfl
@[simp] theorem Engine.afterReset_fill : (Engine.afterReset d m w x).fill = 0 := rfl
@[simp] theorem Engine.afterReset_buf : (Engine.afterReset d m w x).buf = m := rfl
@[simp] theorem Engine.afterReset_ctx : (Engine.afterReset d m w x).ctx = .fresh := rfl
@[simp] theorem Engine.afterReset_digest : (Engine.afterReset d m w x).digest = d := rfl
@[simp] theorem Engine.afterReset_dv : (Engine.afterReset d m w x).dv = false := rfl

end Reset

section State
variable (s : State)

@[simp] theorem State.withEngine_engine (v : Engine) : (s.withEngine v).engine = v := rfl
@[simp] theorem State.withEngine_busy (v : Engine) : (s.withEngine v).busy = s.busy := rfl
@[simp] theorem State.withEngine_pins (v : Engine) : (s.withEngine v).pins = s.pins := rfl
@[simp] theorem State.withEngine_edge (v : Engine) : (s.withEngine v).edge = s.edge := rfl

@[simp] theorem State.withBusy_engine (v : Nat) : (s.withBusy v).engine = s.engine := rfl
@[simp] theorem State.withBusy_busy (v : Nat) : (s.withBusy v).busy = v := rfl
@[simp] theorem State.withBusy_pins (v : Nat) : (s.withBusy v).pins = s.pins := rfl
@[simp] theorem State.withBusy_edge (v : Nat) : (s.withBusy v).edge = s.edge := rfl

@[simp] theorem State.withPins_engine (v : List Pins) : (s.withPins v).engine = s.engine := rfl
@[simp] theorem State.withPins_busy (v : List Pins) : (s.withPins v).busy = s.busy := rfl
@[simp] theorem State.withPins_pins (v : List Pins) : (s.withPins v).pins = v := rfl
@[simp] theorem State.withPins_edge (v : List Pins) : (s.withPins v).edge = s.edge := rfl

@[simp] theorem State.withEdge_engine (v : Nat) : (s.withEdge v).engine = s.engine := rfl
@[simp] theorem State.withEdge_busy (v : Nat) : (s.withEdge v).busy = s.busy := rfl
@[simp] theorem State.withEdge_pins (v : Nat) : (s.withEdge v).pins = s.pins := rfl
@[simp] theorem State.withEdge_edge (v : Nat) : (s.withEdge v).edge = v := rfl

end State

end Sys2Proof.Machine
end

