-- ==== Sys2Proof/Laws/Compress.lean ====
section
/-! SUPPORT. What each micro-operation of COMPRESS writes and what it leaves alone (spec/42_compression.md R133,
spec/41_message_schedule.md R120 and R121): one lemma per field. -/

namespace Sys2Proof.Machine

/-! The loops below are irreducible, so that no proof unrolls 64 rounds by accident; these are their equations. -/

@[simp] theorem Scratch.rounds_zero (x : Scratch) : Scratch.rounds 0 x = x := by with_unfolding_all rfl
theorem Scratch.rounds_succ (t : Nat) (x : Scratch) : Scratch.rounds (t + 1) x = (Scratch.rounds t x).round t := by
  with_unfolding_all rfl

@[simp] theorem refRounds_zero (h : Vector Word 8) (w : Nat → Word) : refRounds h w 0 = Work.ofVector h := by
  with_unfolding_all rfl
theorem refRounds_succ (h : Vector Word 8) (w : Nat → Word) (t : Nat) :
    refRounds h w (t + 1) = (refRounds h w t).mix (roundConst t) (w t) := by
  with_unfolding_all rfl

@[simp] theorem rotatingRounds_zero (h : Vector Word 8) (w : Nat → Word) : rotatingRounds h w 0 = h := by
  with_unfolding_all rfl
theorem rotatingRounds_succ (h : Vector Word 8) (w : Nat → Word) (t : Nat) :
    rotatingRounds h w (t + 1) = rotatingRound t (roundConst t) (w t) (rotatingRounds h w t) := by
  with_unfolding_all rfl

@[simp] theorem directSchedule_zero (block : Nat → Word) : directSchedule block 0 = (List.range 16).map block := by
  with_unfolding_all rfl
theorem directSchedule_succ (block : Nat → Word) (n : Nat) :
    directSchedule block (n + 1) = directSchedule block n ++
      [(directSchedule block n).getD n 0 + smallSigma0 ((directSchedule block n).getD (n + 1) 0) +
        (directSchedule block n).getD (n + 9) 0 + smallSigma1 ((directSchedule block n).getD (n + 14) 0)] := by
  with_unfolding_all rfl

section Engine
variable (e : Engine) (t n : Nat)

@[simp] theorem Engine.schedLoad_h : (e.schedLoad).h = e.h := rfl
@[simp] theorem Engine.schedLoad_work : (e.schedLoad).work = e.work := rfl
@[simp] theorem Engine.schedLoad_cnt : (e.schedLoad).cnt = e.cnt := rfl
@[simp] theorem Engine.schedLoad_fill : (e.schedLoad).fill = e.fill := rfl
@[simp] theorem Engine.schedLoad_buf : (e.schedLoad).buf = e.buf := rfl
@[simp] theorem Engine.schedLoad_ctx : (e.schedLoad).ctx = e.ctx := rfl
@[simp] theorem Engine.schedLoad_digest : (e.schedLoad).digest = e.digest := rfl
@[simp] theorem Engine.schedLoad_dv : (e.schedLoad).dv = e.dv := rfl

@[simp] theorem Engine.schedStep_h : (e.schedStep t).h = e.h := rfl
@[simp] theorem Engine.schedStep_work : (e.schedStep t).work = e.work := rfl
@[simp] theorem Engine.schedStep_cnt : (e.schedStep t).cnt = e.cnt := rfl
@[simp] theorem Engine.schedStep_fill : (e.schedStep t).fill = e.fill := rfl
@[simp] theorem Engine.schedStep_buf : (e.schedStep t).buf = e.buf := rfl
@[simp] theorem Engine.schedStep_ctx : (e.schedStep t).ctx = e.ctx := rfl
@[simp] theorem Engine.schedStep_digest : (e.schedStep t).digest = e.digest := rfl
@[simp] theorem Engine.schedStep_dv : (e.schedStep t).dv = e.dv := rfl

@[simp] theorem Engine.workLoad_h : (e.workLoad).h = e.h := rfl
@[simp] theorem Engine.workLoad_w : (e.workLoad).w = e.w := rfl
@[simp] theorem Engine.workLoad_cnt : (e.workLoad).cnt = e.cnt := rfl
@[simp] theorem Engine.workLoad_fill : (e.workLoad).fill = e.fill := rfl
@[simp] theorem Engine.workLoad_buf : (e.workLoad).buf = e.buf := rfl
@[simp] theorem Engine.workLoad_ctx : (e.workLoad).ctx = e.ctx := rfl
@[simp] theorem Engine.workLoad_digest : (e.workLoad).digest = e.digest := rfl
@[simp] theorem Engine.workLoad_dv : (e.workLoad).dv = e.dv := rfl

@[simp] theorem Engine.workLoad_work : e.workLoad.work = Work.ofVector e.h := rfl
@[simp] theorem Engine.schedStep_slots : (e.schedStep t).w = e.w.set (t % 16) (windowWord e.w t) := rfl

@[simp] theorem Engine.round_h : (e.round t).h = e.h := rfl
@[simp] theorem Engine.round_w : (e.round t).w = e.w := rfl
@[simp] theorem Engine.round_cnt : (e.round t).cnt = e.cnt := rfl
@[simp] theorem Engine.round_fill : (e.round t).fill = e.fill := rfl
@[simp] theorem Engine.round_buf : (e.round t).buf = e.buf := rfl
@[simp] theorem Engine.round_ctx : (e.round t).ctx = e.ctx := rfl
@[simp] theorem Engine.round_digest : (e.round t).digest = e.digest := rfl
@[simp] theorem Engine.round_dv : (e.round t).dv = e.dv := rfl

@[simp] theorem Engine.rounds_h : (Engine.rounds n e).h = e.h := rfl
@[simp] theorem Engine.rounds_cnt : (Engine.rounds n e).cnt = e.cnt := rfl
@[simp] theorem Engine.rounds_fill : (Engine.rounds n e).fill = e.fill := rfl
@[simp] theorem Engine.rounds_buf : (Engine.rounds n e).buf = e.buf := rfl
@[simp] theorem Engine.rounds_ctx : (Engine.rounds n e).ctx = e.ctx := rfl
@[simp] theorem Engine.rounds_digest : (Engine.rounds n e).digest = e.digest := rfl
@[simp] theorem Engine.rounds_dv : (Engine.rounds n e).dv = e.dv := rfl

@[simp] theorem Engine.compressStart_h : (e.compressStart).h = e.h := rfl
@[simp] theorem Engine.compressStart_cnt : (e.compressStart).cnt = e.cnt := rfl
@[simp] theorem Engine.compressStart_fill : (e.compressStart).fill = e.fill := rfl
@[simp] theorem Engine.compressStart_buf : (e.compressStart).buf = e.buf := rfl
@[simp] theorem Engine.compressStart_ctx : (e.compressStart).ctx = e.ctx := rfl
@[simp] theorem Engine.compressStart_digest : (e.compressStart).digest = e.digest := rfl
@[simp] theorem Engine.compressStart_dv : (e.compressStart).dv = e.dv := rfl

/-- COMPRESS as its rounds followed by FEEDFWD (R133). -/
theorem Engine.compress_eq : e.compress = (Engine.rounds 64 e.compressStart).feedFwd := by
  rw [Engine.compress]

@[simp] theorem Engine.compress_cnt : (e.compress).cnt = e.cnt := by
  rw [Engine.compress_eq, Engine.feedFwd, Engine.setH_cnt, Engine.rounds_cnt, Engine.compressStart_cnt]
@[simp] theorem Engine.compress_fill : (e.compress).fill = e.fill := by
  rw [Engine.compress_eq, Engine.feedFwd, Engine.setH_fill, Engine.rounds_fill, Engine.compressStart_fill]
@[simp] theorem Engine.compress_buf : (e.compress).buf = e.buf := by
  rw [Engine.compress_eq, Engine.feedFwd, Engine.setH_buf, Engine.rounds_buf, Engine.compressStart_buf]
@[simp] theorem Engine.compress_ctx : (e.compress).ctx = e.ctx := by
  rw [Engine.compress_eq, Engine.feedFwd, Engine.setH_ctx, Engine.rounds_ctx, Engine.compressStart_ctx]
@[simp] theorem Engine.compress_digest : (e.compress).digest = e.digest := by
  rw [Engine.compress_eq, Engine.feedFwd, Engine.setH_digest, Engine.rounds_digest, Engine.compressStart_digest]
@[simp] theorem Engine.compress_dv : (e.compress).dv = e.dv := by
  rw [Engine.compress_eq, Engine.feedFwd, Engine.setH_dv, Engine.rounds_dv, Engine.compressStart_dv]

theorem Engine.rounds_work : (Engine.rounds n e).work = (e.scratch.rounds n).work := rfl
theorem Engine.rounds_w : (Engine.rounds n e).w = (e.scratch.rounds n).w := rfl

/-- H after COMPRESS, in terms of the working registers after the 64 rounds (R132). -/
theorem Engine.compress_h :
    e.compress.h = feedForward e.h (Engine.rounds 64 e.compressStart).work := by
  rw [Engine.compress_eq, Engine.feedFwd, Engine.setH_h, Engine.rounds_h, Engine.compressStart_h]

/-- One more round: SCHED_STEP(t) when t is 16 or more, and then ROUND(t) (R133). -/
theorem Engine.rounds_succ : Engine.rounds (t + 1) e = ((Engine.rounds t e).prepareRound t).round t := by
  by_cases ht : 16 ≤ t
  · simp only [Engine.prepareRound, if_pos ht, Engine.round, Engine.schedStep, Engine.rounds, Scratch.rounds_succ,
      Scratch.round, preparedWindow, Engine.setWork, Engine.setW]
  · simp only [Engine.prepareRound, if_neg ht, Engine.round, Engine.rounds, Scratch.rounds_succ, Scratch.round,
      preparedWindow, Engine.setWork, Engine.setW]

end Engine

end Sys2Proof.Machine
end

