-- ==== Sys2Proof/Laws/Memory.lean ====
section
/-! SUPPORT. The laws of the byte store: every operation keeps the canonical form, a read after a write gives the byte
written, and a write leaves every other byte alone. -/

namespace Sys2Proof.Machine

theorem Memory.wfFrom_cons (lo k : Nat) (v : Byte) (rest : Memory) :
    Memory.wfFrom lo ((k, v) :: rest) = true ↔
      lo ≤ k ∧ k < 64 ∧ v ≠ unlistedByte ∧ Memory.wfFrom (k + 1) rest = true := by
  simp [Memory.wfFrom, and_assoc]

theorem Memory.wfFrom_mono {lo lo' : Nat} (hle : lo' ≤ lo) {m : Memory} (hm : Memory.wfFrom lo m = true) :
    Memory.wfFrom lo' m = true := by
  cases m with
  | nil => rfl
  | cons c rest =>
    rw [Memory.wfFrom_cons] at hm ⊢
    exact ⟨hle.trans hm.1, hm.2⟩

/-- Below the first address a store may list, every byte reads as an unlisted one. -/
theorem Memory.read_below {lo addr : Nat} (hlt : addr < lo) {m : Memory} (hm : Memory.wfFrom lo m = true) :
    m.read addr = unlistedByte := by
  induction m generalizing lo with
  | nil => rfl
  | cons c rest ih =>
    obtain ⟨k, v⟩ := c
    rw [Memory.wfFrom_cons] at hm
    have hne : addr ≠ k := by omega
    rw [Memory.read, if_neg hne]
    exact ih (by omega : addr < k + 1) hm.2.2.2

theorem Memory.wfFrom_cell {lo addr : Nat} (b : Byte) {rest : Memory} (hlo : lo ≤ addr) (hlt : addr < 64)
    (hr : Memory.wfFrom (addr + 1) rest = true) : Memory.wfFrom lo (Memory.cell addr b rest) = true := by
  unfold Memory.cell
  split
  · exact Memory.wfFrom_mono (by omega) hr
  · next hb => exact (Memory.wfFrom_cons ..).2 ⟨hlo, hlt, hb, hr⟩

theorem Memory.wfFrom_write {lo addr : Nat} (b : Byte) {m : Memory} (hlo : lo ≤ addr) (hlt : addr < 64)
    (hm : Memory.wfFrom lo m = true) : Memory.wfFrom lo (m.write addr b) = true := by
  induction m generalizing lo with
  | nil => exact Memory.wfFrom_cell b hlo hlt rfl
  | cons c rest ih =>
    obtain ⟨k, v⟩ := c
    rw [Memory.wfFrom_cons] at hm
    obtain ⟨h1, h2, h3, h4⟩ := hm
    unfold Memory.write
    split
    · exact Memory.wfFrom_cell b hlo hlt ((Memory.wfFrom_cons ..).2 ⟨by omega, h2, h3, h4⟩)
    split
    · next heq => exact Memory.wfFrom_cell b hlo hlt (heq ▸ h4)
    · exact (Memory.wfFrom_cons ..).2 ⟨h1, h2, h3, ih (by omega) h4⟩

/-- A write inside BUF keeps the canonical form. -/
theorem Memory.wf_write {addr : Nat} (b : Byte) {m : Memory} (hlt : addr < 64) (hm : m.wf = true) :
    (m.write addr b).wf = true :=
  Memory.wfFrom_write b (Nat.zero_le _) hlt hm

theorem Memory.read_cell {addr : Nat} (b : Byte) {rest : Memory} (hr : Memory.wfFrom (addr + 1) rest = true)
    (a : Nat) : (Memory.cell addr b rest).read a = if a = addr then b else rest.read a := by
  unfold Memory.cell
  split
  · next hb =>
    split
    · next ha => rw [ha, hb, Memory.read_below (Nat.lt_succ_self _) hr]
    · rfl
  · rfl

theorem Memory.read_write_from {lo addr : Nat} (b : Byte) {m : Memory} (hm : Memory.wfFrom lo m = true) (a : Nat) :
    (m.write addr b).read a = if a = addr then b else m.read a := by
  induction m generalizing lo with
  | nil => exact Memory.read_cell b rfl a
  | cons c rest ih =>
    obtain ⟨k, v⟩ := c
    rw [Memory.wfFrom_cons] at hm
    obtain ⟨h1, h2, h3, h4⟩ := hm
    unfold Memory.write
    split
    · exact Memory.read_cell b ((Memory.wfFrom_cons ..).2 ⟨by omega, h2, h3, h4⟩) a
    split
    · next heq =>
      rw [Memory.read_cell b (heq ▸ h4) a, Memory.read]
      split <;> simp_all
    · rw [Memory.read, Memory.read, ih h4]
      split <;> split <;> simp_all

/-- What a write does to each byte: it replaces one and leaves every other alone (R51). -/
theorem Memory.read_write (addr : Nat) (b : Byte) {m : Memory} (hm : m.wf = true) (a : Nat) :
    (m.write addr b).read a = if a = addr then b else m.read a :=
  Memory.read_write_from b hm a

/-- A store built from a function is in canonical form. -/
theorem Memory.wf_ofBytes (byte : Nat → Byte) (n : Nat) (hn : n ≤ 64) : (Memory.ofBytes byte n).wf = true := by
  induction n with
  | zero => rfl
  | succ n ih => exact Memory.wf_write _ hn (ih (by omega))

end Sys2Proof.Machine
end

