-- ==== Sys2Proof/Laws/Context.lean ====
section
/-! SUPPORT. What the operations of the Hash Context write and what they leave alone (spec/43_hash_context.md R152 to
R155): one lemma per field. -/

namespace Sys2Proof.Machine

theorem Engine.pushAddress_lt (e : Engine) : e.pushAddress < 64 := e.fill.isLt

@[simp] theorem Engine.initContext_h (e : Engine) : e.initContext.h = iv := rfl
@[simp] theorem Engine.initContext_cnt (e : Engine) : e.initContext.cnt = 0 := rfl
@[simp] theorem Engine.initContext_fill (e : Engine) : e.initContext.fill = 0 := rfl
@[simp] theorem Engine.initContext_ctx (e : Engine) : e.initContext.ctx = .fresh := rfl
@[simp] theorem Engine.initContext_work (e : Engine) : e.initContext.work = e.work := rfl
@[simp] theorem Engine.initContext_w (e : Engine) : e.initContext.w = e.w := rfl
@[simp] theorem Engine.initContext_buf (e : Engine) : e.initContext.buf = e.buf := rfl
@[simp] theorem Engine.initContext_digest (e : Engine) : e.initContext.digest = e.digest := rfl
@[simp] theorem Engine.initContext_dv (e : Engine) : e.initContext.dv = e.dv := rfl

/-- PUSH below index 63: the byte is stored and FILL moves on (R153). -/
theorem Engine.push_below (b : Byte) (e : Engine) (hf : e.fill ≠ 63) :
    e.push b = (e.store e.pushAddress b).setFill (e.fill + 1) := by
  rw [Engine.push, Engine.advanceFill, if_neg (by simpa using hf), Engine.store_fill]

/-- PUSH at index 63: the byte is stored, COMPRESS runs, and FILL returns to 0 (R153). -/
theorem Engine.push_last (b : Byte) (e : Engine) (hf : e.fill = 63) :
    e.push b = ((e.store e.pushAddress b).compress).setFill 0 := by
  rw [Engine.push, Engine.advanceFill, if_pos (by simpa using hf)]

@[simp] theorem Engine.push_cnt (b : Byte) (e : Engine) : (e.push b).cnt = e.cnt := by
  unfold Engine.push Engine.advanceFill; split <;> simp
@[simp] theorem Engine.push_ctx (b : Byte) (e : Engine) : (e.push b).ctx = e.ctx := by
  unfold Engine.push Engine.advanceFill; split <;> simp
@[simp] theorem Engine.push_digest (b : Byte) (e : Engine) : (e.push b).digest = e.digest := by
  unfold Engine.push Engine.advanceFill; split <;> simp
@[simp] theorem Engine.push_dv (b : Byte) (e : Engine) : (e.push b).dv = e.dv := by
  unfold Engine.push Engine.advanceFill; split <;> simp
@[simp] theorem Engine.push_buf (b : Byte) (e : Engine) : (e.push b).buf = e.buf.write e.pushAddress b := by
  unfold Engine.push Engine.advanceFill; split <;> simp

/-- FILL after PUSH: it advances by one modulo 64 (R156). -/
@[simp] theorem Engine.push_fill (b : Byte) (e : Engine) : (e.push b).fill = e.fill + 1 := by
  unfold Engine.push Engine.advanceFill
  split
  · next hf =>
    rw [Engine.store_fill] at hf
    simp [hf]
  · simp

/-- PUSH keeps the canonical form of BUF. -/
theorem Engine.push_wf (b : Byte) (e : Engine) (hm : e.buf.wf = true) : (e.push b).buf.wf = true := by
  rw [Engine.push_buf]
  exact Memory.wf_write b e.pushAddress_lt hm

/-- What a sequence of PUSH leaves alone and what it keeps. -/
theorem Engine.pushAll_frame (bs : List Byte) (e : Engine) :
    (Engine.pushAll bs e).cnt = e.cnt ∧ (Engine.pushAll bs e).ctx = e.ctx ∧
      (Engine.pushAll bs e).digest = e.digest ∧ (Engine.pushAll bs e).dv = e.dv ∧
      (e.buf.wf = true → (Engine.pushAll bs e).buf.wf = true) := by
  induction bs generalizing e with
  | nil => simp [Engine.pushAll]
  | cons b rest ih =>
    obtain ⟨h1, h2, h3, h4, h5⟩ := ih (e.push b)
    rw [Engine.pushAll]
    exact ⟨by rw [h1, Engine.push_cnt], by rw [h2, Engine.push_ctx], by rw [h3, Engine.push_digest],
      by rw [h4, Engine.push_dv], fun hm => h5 (Engine.push_wf b e hm)⟩

/-- What the zero loop of FINAL leaves alone and what it keeps. -/
theorem Engine.padZeros_frame (n : Nat) (e : Engine) :
    (Engine.padZeros n e).cnt = e.cnt ∧ (Engine.padZeros n e).ctx = e.ctx ∧
      (Engine.padZeros n e).digest = e.digest ∧ (Engine.padZeros n e).dv = e.dv ∧
      (e.buf.wf = true → (Engine.padZeros n e).buf.wf = true) := by
  induction n generalizing e with
  | zero => simp [Engine.padZeros]
  | succ n ih =>
    unfold Engine.padZeros
    split
    · simp
    · obtain ⟨h1, h2, h3, h4, h5⟩ := ih (e.push 0x00)
      exact ⟨by rw [h1, Engine.push_cnt], by rw [h2, Engine.push_ctx], by rw [h3, Engine.push_digest],
        by rw [h4, Engine.push_dv], fun hm => h5 (Engine.push_wf 0x00 e hm)⟩

/-- The padding of FINAL leaves CNT, CTX, DIGEST and DV alone and keeps BUF in its canonical form (R155). -/
theorem Engine.pad_frame (e : Engine) :
    e.pad.cnt = e.cnt ∧ e.pad.ctx = e.ctx ∧ e.pad.digest = e.digest ∧ e.pad.dv = e.dv ∧
      (e.buf.wf = true → e.pad.buf.wf = true) := by
  obtain ⟨h1, h2, h3, h4, h5⟩ := Engine.padZeros_frame 63 (e.push 0x80)
  obtain ⟨g1, g2, g3, g4, g5⟩ :=
    Engine.pushAll_frame (lengthBytes (messageLength e.cnt)) (Engine.padZeros 63 (e.push 0x80))
  exact ⟨by rw [Engine.pad, g1, h1, Engine.push_cnt], by rw [Engine.pad, g2, h2, Engine.push_ctx],
    by rw [Engine.pad, g3, h3, Engine.push_digest], by rw [Engine.pad, g4, h4, Engine.push_dv],
    fun hm => g5 (h5 (Engine.push_wf 0x80 e hm))⟩

section Update
variable (data : Byte) (e : Engine)

@[simp] theorem Engine.updateByte_h : (e.updateByte data).h = ((e.setCnt (e.cnt + 1)).push data).h := by
  rw [Engine.updateByte, Engine.markAccum_h]
@[simp] theorem Engine.updateByte_cnt : (e.updateByte data).cnt = e.cnt + 1 := by
  rw [Engine.updateByte, Engine.markAccum_cnt, Engine.push_cnt, Engine.setCnt_cnt]
@[simp] theorem Engine.updateByte_fill : (e.updateByte data).fill = e.fill + 1 := by
  rw [Engine.updateByte, Engine.markAccum_fill, Engine.push_fill, Engine.setCnt_fill]
@[simp] theorem Engine.updateByte_buf : (e.updateByte data).buf = e.buf.write e.pushAddress data := by
  rw [Engine.updateByte, Engine.markAccum_buf, Engine.push_buf, Engine.setCnt_buf]; rfl
@[simp] theorem Engine.updateByte_ctx : (e.updateByte data).ctx = .accum := by
  rw [Engine.updateByte, Engine.markAccum_ctx]
@[simp] theorem Engine.updateByte_digest : (e.updateByte data).digest = e.digest := by
  rw [Engine.updateByte, Engine.markAccum_digest, Engine.push_digest, Engine.setCnt_digest]
@[simp] theorem Engine.updateByte_dv : (e.updateByte data).dv = e.dv := by
  rw [Engine.updateByte, Engine.markAccum_dv, Engine.push_dv, Engine.setCnt_dv]

end Update

section Final
variable (e : Engine)

@[simp] theorem Engine.finalDigest_h : e.finalDigest.h = iv := by
  rw [Engine.finalDigest, Engine.initContext_h]
@[simp] theorem Engine.finalDigest_cnt : e.finalDigest.cnt = 0 := by
  rw [Engine.finalDigest, Engine.initContext_cnt]
@[simp] theorem Engine.finalDigest_fill : e.finalDigest.fill = 0 := by
  rw [Engine.finalDigest, Engine.initContext_fill]
@[simp] theorem Engine.finalDigest_ctx : e.finalDigest.ctx = .fresh := by
  rw [Engine.finalDigest, Engine.initContext_ctx]
@[simp] theorem Engine.finalDigest_buf : e.finalDigest.buf = e.pad.buf := by
  rw [Engine.finalDigest, Engine.initContext_buf, Engine.emitDigest, Engine.markValid_buf, Engine.setDigest_buf]
@[simp] theorem Engine.finalDigest_dv : e.finalDigest.dv = true := by
  rw [Engine.finalDigest, Engine.initContext_dv, Engine.emitDigest, Engine.markValid_dv]
/-- FINAL writes DIGEST with the serialization of H after the padding (R53, R155). -/
@[simp] theorem Engine.finalDigest_digest : e.finalDigest.digest = serializeDigest e.pad.h := by
  rw [Engine.finalDigest, Engine.initContext_digest, Engine.emitDigest, Engine.markValid_digest,
    Engine.setDigest_digest]

end Final

/-- UPDATE keeps BUF in its canonical form. -/
theorem Engine.updateByte_wf (data : Byte) (e : Engine) (hm : e.buf.wf = true) :
    (e.updateByte data).buf.wf = true := by
  rw [Engine.updateByte_buf]
  exact Memory.wf_write data e.pushAddress_lt hm

/-- FINAL keeps BUF in its canonical form. -/
theorem Engine.finalDigest_wf (e : Engine) (hm : e.buf.wf = true) : e.finalDigest.buf.wf = true := by
  rw [Engine.finalDigest_buf]
  exact e.pad_frame.2.2.2.2 hm

/-- The context reset keeps BUF in its canonical form. -/
theorem Engine.initContext_wf (e : Engine) (hm : e.buf.wf = true) : e.initContext.buf.wf = true := by
  rw [Engine.initContext_buf]
  exact hm

end Sys2Proof.Machine
end

