-- ==== Sys2Proof/Laws/PerInstr.lean ====
section
/-! SUPPORT. A statement about every command as syntax, proved constructor by constructor: its canonical word lies in
its own row of the opcode table (spec/30_encoding.md R82 and R83). -/

namespace Sys2Proof.Laws.TableRow

/-- The canonical word of a command has the op bits of the command's row, and the command is well formed. -/
def Statement (i : Instr) : Prop :=
  encode i &&& tableMask = i.tableMatch ∧ i.wellFormed = true

theorem nop : Statement .nop := by
  unfold Statement; decide

theorem init : Statement .init := by
  unfold Statement; decide

theorem update (data : Byte) : Statement (.update data) := by
  have hrow : ∀ d : Byte, encode (.update d) &&& tableMask = Instr.tableMatch (.update d) := by decide
  exact ⟨hrow data, by simpa [Instr.wellFormed] using data.isLt⟩

theorem final : Statement .final := by
  unfold Statement; decide

end Sys2Proof.Laws.TableRow
end

