-- ==== Sys2Proof/Laws/Step.lean ====
section
/-! SUPPORT. Everything one step can do, said once (spec/10_state.md R32, spec/70_reset_and_hazards.md R200). -/

namespace Sys2Proof.Machine

/-- The meaning of every command leaves the handshake and the pins alone: it is a change of the engine. -/
theorem exec_engine (i : Instr) (s : State) : ∃ e, exec i s = .next (s.withEngine e) := by
  cases i
  · exact ⟨s.engine, rfl⟩
  · exact ⟨_, rfl⟩
  · exact ⟨_, rfl⟩
  · exact ⟨_, rfl⟩

/-- A step is a reset, an accepted command, or an edge at which nothing is accepted. -/
theorem step_cases {s t : State} (hst : step s = .next t) :
    (s.nowPins.rst = true ∧ t = s.resetEdge.nextEdge) ∨
      (s.nowPins.rst = false ∧ s.accepts = true ∧
        ∃ e, exec (decode s.nowPins.cmd) s.nextEdge = .next (s.nextEdge.withEngine e) ∧
          t = (s.nextEdge.withEngine e).withBusy (latencyOf (decode s.nowPins.cmd) s.edge)) ∨
      (s.nowPins.rst = false ∧ s.accepts = false ∧ t = s.wait.nextEdge) := by
  unfold step at hst
  split at hst
  · next hr =>
    injection hst with hst
    exact .inl ⟨hr, hst.symm⟩
  · next hr =>
    have hr' : s.nowPins.rst = false := by simpa using hr
    split at hst
    · next ha =>
      obtain ⟨e, he⟩ := exec_engine (decode s.nowPins.cmd) s.nextEdge
      rw [he] at hst
      injection hst with hst
      exact .inr (.inl ⟨hr', ha, e, he, hst.symm⟩)
    · next ha =>
      injection hst with hst
      exact .inr (.inr ⟨hr', by simpa using ha, hst.symm⟩)

@[simp] theorem State.nextEdge_engine (s : State) : s.nextEdge.engine = s.engine := rfl
@[simp] theorem State.nextEdge_busy (s : State) : s.nextEdge.busy = s.busy := rfl
@[simp] theorem State.nextEdge_pins (s : State) : s.nextEdge.pins = s.pins.tail := rfl
@[simp] theorem State.nextEdge_edge (s : State) : s.nextEdge.edge = s.edge + 1 := rfl
@[simp] theorem State.wait_engine (s : State) : s.wait.engine = s.engine := rfl
@[simp] theorem State.wait_busy (s : State) : s.wait.busy = s.busy - 1 := rfl
@[simp] theorem State.wait_pins (s : State) : s.wait.pins = s.pins := rfl
@[simp] theorem State.wait_edge (s : State) : s.wait.edge = s.edge := rfl
@[simp] theorem State.resetEdge_engine (s : State) : s.resetEdge.engine = Engine.resetAt s.edge := rfl
@[simp] theorem State.resetEdge_busy (s : State) : s.resetEdge.busy = 0 := rfl
@[simp] theorem State.resetEdge_pins (s : State) : s.resetEdge.pins = s.pins := rfl
@[simp] theorem State.resetEdge_edge (s : State) : s.resetEdge.edge = s.edge := rfl

/-- The fields that R39 gives a value take it at a reset. -/
theorem Engine.resetAt_fields (edge : Nat) :
    (Engine.resetAt edge).h = iv ∧ (Engine.resetAt edge).cnt = 0 ∧ (Engine.resetAt edge).fill = 0 ∧
      (Engine.resetAt edge).ctx = .fresh ∧ (Engine.resetAt edge).dv = false := by
  simp only [Engine.resetAt, Engine.afterReset_h, Engine.afterReset_cnt, Engine.afterReset_fill,
    Engine.afterReset_ctx, Engine.afterReset_dv, and_self]

/-- A reset leaves BUF in its canonical form, whatever the bytes it leaves unspecified. -/
theorem Engine.resetAt_wf (edge : Nat) : (Engine.resetAt edge).buf.wf = true := by
  rw [Engine.resetAt, Engine.afterReset_buf]
  exact Memory.wf_ofBytes _ 64 (Nat.le_refl _)

/-- The memory right after reset is in its canonical form. -/
theorem State.reset_wf : State.reset.engine.buf.wf = true := rfl

end Sys2Proof.Machine
end

