-- ==== Sys2Proof/Tests/Slice0.lean ====
section
/-! SUPPORT. Small tests of the model and, for every statement with hypotheses, a witness that meets them. Expected
values come from spec/95_test_vectors.md and from the examples of the rules; each test names its source. -/

namespace Sys2Proof.Tests
open Sys2Proof Sys2Proof.Machine

/-! ## Small states -/

/-- The next state of an outcome, where it is one. -/
def nextOf (o : Host.Outcome State Fault Refusal) : Option State :=
  match o with
  | .next s => some s
  | .fault _ => none
  | .refused _ => none

/-- The machine after reset with a message begun: the bytes of a buffer, CNT and FILL. -/
def begun (buf : Memory) (cnt : Count) (fill : FillIndex) : State :=
  State.reset.withEngine ((((State.reset.engine.setBuf buf).setCnt cnt).setFill fill).setCtx .accum)

/-- After UPDATE 0x61, 0x62, 0x63 (program P1 of 95_test_vectors.md 7.2). -/
def abc : State := begun [(0, 0x61), (1, 0x62), (2, 0x63)] 3 3

/-- The bytes 00 01 .. up to n - 1, as a buffer holds them. -/
def rising (n : Nat) : Memory := Memory.ofBytes (fun k => BitVec.ofNat 8 k) n

/-- The block of "abc" (95_test_vectors.md 3.1). -/
def abcBlock : Memory := [(0, 0x61), (1, 0x62), (2, 0x63), (3, 0x80), (63, 0x18)]

/-- An edge at which the host presents a command word. -/
def presenting (c : Cmd) : Pins := ⟨false, true, c⟩

/-- An edge at which the host raises rst. -/
def resetting : Pins := ⟨true, true, 0x261⟩

/-- A digest as the digest port shows it in the state after one command. -/
def digestAfter (i : Instr) (s : State) : Option (BitVec 256) :=
  (nextOf (exec i s)).map fun t => digestPort t.engine.digest

/-! ## What is no command (R80, R81, R87) -/

theorem test_number_too_wide : cmdNumberFits 1024 = false ∧ cmdNumberFits 1023 = true := by decide

theorem test_number_refused : decodeNumber 1024 = .error .widerThanPort := rfl

theorem test_operand_count :
    AsmLine.operandCountOk ⟨.update, none⟩ = false ∧ AsmLine.operandCountOk ⟨.nop, some 0⟩ = false ∧
      AsmLine.operandCountOk ⟨.init, some 0⟩ = false ∧ AsmLine.operandCountOk ⟨.final, some 0⟩ = false := by decide

theorem test_operand_too_wide :
    AsmLine.operandFits ⟨.update, some 256⟩ = false ∧ AsmLine.wellFormed ⟨.update, some 256⟩ = false ∧
      AsmLine.wellFormed ⟨.update, some 255⟩ = true := by decide

theorem test_text_lines :
    parseLine ['U', 'P', 'D', 'A', 'T', 'E', ' ', '0', 'x', '6', '1', ' ', ';', 'a'] = .ok (.update 0x61) ∧
      parseLine ['F', 'I', 'N', 'A', 'L'] = .ok .final ∧
      parseLine ['U', 'P', 'D', 'A', 'T', 'E'] = .error .operandCount ∧
      parseLine ['N', 'O', 'P', ' ', '0', 'x', '0', '0'] = .error .operandCount ∧
      parseLine ['n', 'o', 'p'] = .error .unknownMnemonic ∧
      parseLine ['U', 'P', 'D', 'A', 'T', 'E', ' ', '0', 'x', '1'] = .error .badOperand ∧
      parseLine [' ', ';', 'x'] = .error .noCommand := by decide +kernel

/-! ## Decoding, word by word (95_test_vectors.md 7.1) -/

theorem test_decode_nop : decode 0b0000000000#10 = .nop ∧ decode 0b0001100001#10 = .nop := by decide
theorem test_decode_init : decode 0b0100000000#10 = .init ∧ decode 0b0111111111#10 = .init := by decide
theorem test_decode_update : decode 0b1001100001#10 = .update 0x61 ∧ decode 0b1010000000#10 = .update 0x80 := by decide
theorem test_decode_final : decode 0b1100000000#10 = .final ∧ decode 0b1110100101#10 = .final := by decide

theorem test_table_words :
    decodeTableWord 16 0x000 = some .nop ∧ decodeTableWord 16 0x1ff = some .init ∧
      decodeTableWord 16 0x261 = some (.update 0x61) ∧ decodeTableWord 16 0x3a5 = some .final := by decide

/-! ## The pure functions (95_test_vectors.md 2) -/

theorem test_rotations :
    rotl32 0x80000001 33 = 0x00000003 ∧ rotr32 0x80000001 33 = 0xc0000000 ∧
      rotl32 0xdeadbeef 5 = 0xd5b7ddfb ∧ rotr32 0xdeadbeef 5 = 0x7ef56df7 ∧ shr32 0xdeadbeef 5 = 0x06f56df7 := by decide

theorem test_choice_majority :
    ch 0xf0f0f0f0 0xcccccccc 0xaaaaaaaa = 0xcacacaca ∧ maj 0xf0f0f0f0 0xcccccccc 0xaaaaaaaa = 0xe8e8e8e8 := by decide

theorem test_sigmas :
    bigSigma0 0x12345678 = 0x66146474 ∧ bigSigma1 0x12345678 = 0x3561abda ∧
      smallSigma0 0x12345678 = 0xe7fce6ee ∧ smallSigma1 0x12345678 = 0xa1f78649 := by decide

/-! ## The schedule and the compression (95_test_vectors.md 3) -/

/-- 41_message_schedule.md R122. -/
theorem test_schedule_abc :
    (State.reset.engine.setBuf abcBlock).schedWord 16 = 0x61626380 ∧
      (State.reset.engine.setBuf abcBlock).schedWord 63 = 0x12b1edeb ∧
      directWord (bufWord abcBlock) 63 = 0x12b1edeb := by decide +kernel

/-- 95_test_vectors.md 3.4, first row. -/
theorem test_compress_abc :
    (State.reset.engine.setBuf abcBlock).compress.h =
      #v[0xba7816bf, 0x8f01cfea, 0x414140de, 0x5dae2223, 0xb00361a3, 0x96177a9c, 0xb410ff61, 0xf20015ad] := by
  decide +kernel

/-- 95_test_vectors.md 3.4, third row: a HashState that is not IV. -/
theorem test_compress_zeros :
    (State.reset.engine.setH (Vector.replicate 8 0)).compress.h =
      #v[0x7ca51614, 0x425c3ba8, 0xce54dd2f, 0xc2020ae7, 0xb6e574d1, 0x98136d0f, 0xae7e26cc, 0xbf0be7a6] := by
  decide +kernel

/-- R134: the rotating-register form on the same block. -/
theorem test_compress_rotating :
    rotatingCompress iv (directWord (bufWord abcBlock)) =
      #v[0xba7816bf, 0x8f01cfea, 0x414140de, 0x5dae2223, 0xb00361a3, 0x96177a9c, 0xb410ff61, 0xf20015ad] := by
  decide +kernel

/-! ## The commands (95_test_vectors.md 4, 5 and 7.2) -/

/-- R151's example: NOP with CNT = 3 leaves CNT = 3. -/
theorem test_nop : nextOf (exec .nop abc) = some abc := rfl

/-- Program P3: INIT abandons the message and leaves the stale bytes in BUF. -/
theorem test_init_abandons :
    (nextOf (exec .init abc)).map (fun t => (t.engine.h, t.engine.cnt, t.engine.fill, t.engine.ctx)) =
      some (iv, 0, 0, .fresh) := by decide +kernel

/-- R29: INIT does not clear DV and DIGEST, and P3: it leaves the buffer. -/
theorem test_init_keeps :
    (nextOf (exec .init (abc.withEngine (abc.engine.markValid.setDigest (Vector.replicate 32 0xba))))).map
        (fun t => (t.engine.dv, t.engine.digest, t.engine.buf)) =
      some (true, Vector.replicate 32 0xba, abc.engine.buf) := by decide +kernel

/-- R154's example: word 0x261 from the reset state. -/
theorem test_update_first :
    (nextOf (exec (.update 0x61) State.reset)).map
        (fun t => (t.engine.buf, t.engine.cnt, t.engine.fill, t.engine.ctx, t.engine.h)) =
      some ([(0, 0x61)], 1, 1, .accum, iv) := by decide +kernel

/-- Program P2: the 64th byte runs COMPRESS and FILL returns to 0. -/
theorem test_update_fills_block :
    (nextOf (exec (.update 0x3f) (begun (rising 63) 63 63))).map
        (fun t => (t.engine.h, t.engine.cnt, t.engine.fill, t.engine.ctx)) =
      some (#v[0xfc99a2df, 0x88f42a7a, 0x7bb9d180, 0x33cdc6a2, 0x0256755f, 0x9d5b9a50, 0x44a9cc31, 0x5abe84a7],
        64, 0, .accum) := by decide +kernel

/-- Program P1: FINAL after three bytes; BUF is 61 62 63 80, 59 zero bytes, 18. -/
theorem test_final_abc :
    (nextOf (exec .final abc)).map (fun t => (digestPort t.engine.digest, t.engine.buf, t.engine.dv, t.engine.cnt)) =
      some (0xba7816bf8f01cfea414140de5dae2223b00361a396177a9cb410ff61f20015ad, abcBlock, true, 0) := by decide +kernel

/-- 95_test_vectors.md 5, the edges of the padding: the messages 00 .. 37 (56 bytes, two COMPRESS in one FINAL, BUF is
56 zero bytes and 01 c0), 00 .. 36 (55 bytes) and 00 .. 3e (63 bytes). -/
theorem test_final_padding_edges :
    (nextOf (exec .final (begun (rising 56) 56 56))).map (fun t => (digestPort t.engine.digest, t.engine.buf)) =
        some (0xda2ae4d6b36748f2a318f23e7ab1dfdf45acdc9d049bd80e59de82a60895f562, [(62, 0x01), (63, 0xc0)]) ∧
      digestAfter .final (begun (rising 55) 55 55) =
        some 0x463eb28e72f82e0a96c0a4cc53690c571281131f672aa229e0d45ae59b598b59 ∧
      digestAfter .final (begun (rising 63) 63 63) =
        some 0x29af2686fd53374a36b0846694cc342177e428d1647515f078784d69cdb9e488 := by decide +kernel

/-- 95_test_vectors.md 4.3: the length field at the counter's edges, and UPDATE at 2^64 - 1 (R164). -/
theorem test_length_field :
    (nextOf (exec (.update 0x00) (begun [] (BitVec.ofNat 64 (2 ^ 64 - 1)) 63))).map
        (fun t => (t.engine.cnt, t.engine.fill)) = some (0, 0) ∧
      messageLength (BitVec.ofNat 64 (2 ^ 61)) = 0 ∧
      messageLength (BitVec.ofNat 64 (2 ^ 61 - 1)) = 0xfffffffffffffff8 ∧
      lengthBytes (messageLength 1000000) = [0x00, 0x00, 0x00, 0x00, 0x00, 0x7a, 0x12, 0x00] := by decide +kernel

/-- R88 and R165: an empty update is no command. -/
theorem test_expand :
    expand (.apiUpdate []) = [] ∧ expand (.apiHash [0x61]) = [.init, .update 0x61, .final] := by decide

/-- 95_test_vectors.md 5: the function Hash on "abc". -/
theorem test_hash_abc :
    digestPort (hashMessage [0x61, 0x62, 0x63]) =
      0xba7816bf8f01cfea414140de5dae2223b00361a396177a9cb410ff61f20015ad := by decide +kernel

/-! ## One clock edge (R32, R183, R200) -/

/-- withFetchWord presents a word and the very next step runs it. -/
theorem test_step_runs_word :
    (nextOf (step (State.reset.withFetchWord 16 0x261))).map (fun t => (t.engine.buf, t.engine.fill, t.pins)) =
      some ([(0, 0x61)], 1, []) := by decide +kernel

theorem test_step_runs_final :
    (nextOf (step (abc.withFetchWord 16 0x3ff))).map (fun t => digestPort t.engine.digest) =
      some 0xba7816bf8f01cfea414140de5dae2223b00361a396177a9cb410ff61f20015ad := by decide +kernel

/-- A command presented while cmd_ready is 0 waits. -/
theorem test_step_waits :
    (nextOf (step ((abc.withBusy 2).withPins [presenting 0x264, presenting 0x264]))).map
      (fun t => (t.engine.fill, t.busy, t.pins)) = some (3, 1, [presenting 0x264]) := by decide +kernel

/-- rst wins over a command at the same edge, and over one in progress. -/
theorem test_step_reset_wins :
    (nextOf (step ((abc.withBusy 5).withPins [resetting]))).map
      (fun t => (t.engine.h, t.engine.cnt, t.engine.fill, t.engine.dv, t.busy)) = some (iv, 0, 0, false, 0) := by
  decide +kernel

/-! ## Witnesses: the hypotheses of each statement are met, at the edges of each clause -/

/-- RotateLeftMovesBitsCircularly, RotateRightMovesBitsCircularly: both clauses on the count, and the last bit index. -/
theorem witness_rotate :
    32 % 32 = 0 ∧ rotl32 0x12345678 32 = 0x12345678 ∧ 0 < 33 % 32 ∧ rotr32 0x80000001 33 = 0xc0000000 ∧
      0 < 31 % 32 ∧ (31 : Nat) < 32 ∧ (rotl32 0x80000001 1).getLsbD 0 = (0x80000001#32).getLsbD 31 := by decide

/-- ShiftAndAddAreArithmetic at both ends of the count; SigmaFunctionsBitByBit at the first and last bit, where the
rotations wrap and the shifts do not. -/
theorem witness_shift_and_sigma :
    (31 : Nat) ≤ 31 ∧ (shr32 0x80000001 31).toNat = 1 ∧ (shr32 0x80000001 0).toNat = 0x80000001 ∧
      (bigSigma0 0x80000001).getLsbD 31 = false ∧ (smallSigma0 0x80000001).getLsbD 28 = true ∧
      (smallSigma1 0xffffffff).getLsbD 22 = false ∧ (smallSigma1 0xffffffff).getLsbD 21 = true := by decide

/-- InitialHashIsRootsOfPrimes and RoundConstantsAreRootsOfPrimes at their last index. -/
theorem witness_constants : (7 : Nat) < 8 ∧ iv[7] = 0x5be0cd19 ∧ (63 : Nat) < 64 ∧ roundConst 63 = 0xc67178f2 := by
  decide

/-- DecodeInvertsEncode: a well-formed command, and the least number of bits the table may give. -/
theorem witness_encode :
    (Instr.update 0xff).wellFormed = true ∧ (10 : Nat) ≤ 10 ∧ decodeTableWord 10 (encode (.update 0xff)).toNat =
      some (.update 0xff) := by decide

/-- EveryWordSpellsOneCommand: the last word of each row. -/
theorem witness_rows :
    (0x0ff#10 &&& 0x300) = 0x000 ∧ (0x1ff#10 &&& 0x300) = 0x100 ∧ (0x2ff#10 &&& 0x300) = 0x200 ∧
      (0x3ff#10 &&& 0x300) = 0x300 := by decide

/-- BufferWriteReplacesOneByte: a canonical buffer with both end bytes written. -/
theorem witness_buffer :
    Memory.wf [(0, 0x61), (63, 0x18)] = true ∧ (Memory.write [(0, 0x61), (63, 0x18)] 63 0x00).wf = true ∧
      (Memory.write [(0, 0x61), (63, 0x18)] 63 0x00).read 0 = 0x61 := by decide

/-- BlockWordsAreBigEndian: the example's bytes and the last word; DigestIsBigEndian: the last byte. -/
theorem witness_byte_order :
    abcBlock.read 0 = 0x61 ∧ abcBlock.read 1 = 0x62 ∧ abcBlock.read 2 = 0x63 ∧ abcBlock.read 3 = 0x80 ∧
      (15 : Nat) < 16 ∧ bufWord abcBlock 15 = 0x18 ∧ (7 : Nat) < 8 ∧ (3 : Nat) < 4 ∧
      (serializeDigest iv)[31] = 0x19 ∧ (31 : Nat) < 32 := by decide

/-- ScheduleStepRewritesOneSlot: the first and last step, a slot that keeps its value, and a round without a step. -/
theorem witness_schedule :
    (16 : Nat) ≤ 16 ∧ (63 : Nat) ≤ 63 ∧ (1 : Nat) ≠ 16 % 16 ∧ ¬(16 : Nat) ≤ 15 ∧
      ((State.reset.engine.setBuf abcBlock).schedLoad.schedStep 16).w[0] = 0x61626380 := by decide +kernel

/-- CircularScheduleEqualsDirect, DirectScheduleRecurrence, ScheduleLoadFillsWindow, RoundMixesWorkingRegisters,
RotatingRegisterFormIsEquivalent: the ends of their ranges. -/
theorem witness_round_ranges :
    (15 : Nat) < 16 ∧ (16 : Nat) ≤ 16 ∧ (63 : Nat) < 64 ∧ (63 : Nat) ≤ 63 ∧ (64 : Nat) ≤ 64 ∧ (7 : Nat) < 8 ∧
      (State.reset.engine.setBuf abcBlock).schedLoad.w[15] = 0x18 := by decide +kernel

/-- CompressIsFunctionOfHashAndBuffer: two buffers that agree on the 64 bytes. -/
theorem witness_same_block : ∀ k, k < 64 → abcBlock.read k = (abcBlock.write 64 0x01).read k := by decide

/-- NopChangesNothing and InitMakesContextFresh: a command word with data bits set, and an idle edge. -/
theorem witness_ignored_data :
    (0x0ff#10).extractLsb' 8 2 = 0 ∧ (0x1ff#10).extractLsb' 8 2 = 1 ∧ (0x2ff#10).extractLsb' 8 2 = 2 ∧
      abc.nowPins.rst = false ∧ abc.nowPins.cmdValid = false := by decide

/-- PushAppendsOneByte, UpdateTakesOneByte, UpdateFrame: FILL at 62 and at 63, in a canonical buffer. -/
theorem witness_fill :
    (begun (rising 62) 62 62).engine.fill ≠ 63 ∧ (begun (rising 62) 62 62).engine.buf.wf = true ∧
      (begun (rising 63) 63 63).engine.fill = 63 ∧ (begun (rising 63) 63 63).engine.buf.wf = true := by
  decide +kernel

/-- FinalPadsAndEmitsDigest, FinalFrame, LengthFieldIsBigEndian, FinalPaddingCounts: FILL at 55 and at 56. -/
theorem witness_final_fill :
    (begun (rising 55) 55 55).engine.buf.wf = true ∧ (begun (rising 55) 55 55).engine.fill.toNat ≤ 55 ∧
      zeroCount 55 = 0 ∧ (begun (rising 56) 56 56).engine.buf.wf = true ∧
      56 ≤ (begun (rising 56) 56 56).engine.fill.toNat ∧ zeroCount 56 = 63 := by decide +kernel

/-- EmptyMessageDigest, DigestIsHashOfMessage: the reset state is Fresh with a canonical buffer. -/
theorem witness_fresh : State.reset.engine.IsFresh ∧ State.reset.engine.buf.wf = true :=
  ⟨⟨rfl, rfl, rfl, rfl⟩, rfl⟩

/-- CounterWrapsSilently: the counter's last value. -/
theorem witness_last_count : (begun [] (BitVec.ofNat 64 (2 ^ 64 - 1)) 63).engine.cnt = BitVec.ofNat 64 (2 ^ 64 - 1) :=
  rfl

/-- ContextStateTransitions, ResetWinsAndResets: rst raised, with a command presented and one in progress. -/
theorem witness_reset_edge :
    ((abc.withBusy 5).withPins [resetting]).nowPins.rst = true ∧
      ((abc.withBusy 5).withPins [resetting]).nowPins.cmdValid = true := by decide

/-- ResetWinsAndResets: the edge after the reset, with rst = 0 and a command presented. -/
theorem witness_after_reset :
    (nextOf (step (abc.withPins [resetting, presenting 0x300]))).map
      (fun t => (t.nowPins.rst, t.nowPins.cmdValid, t.accepts)) = some (false, true, true) := by decide +kernel

/-- DigestHeldUntilNextFinal: an accepted FINAL, an accepted UPDATE, and an edge at which nothing is accepted. -/
theorem witness_digest_edges :
    (abc.withPins [presenting 0x300]).accepts = true ∧ decode (abc.withPins [presenting 0x300]).nowPins.cmd = .final ∧
      (abc.withPins [presenting 0x261]).accepts = true ∧
      decode (abc.withPins [presenting 0x261]).nowPins.cmd ≠ .final ∧
      (abc.withPins [presenting 0x261]).nowPins.rst = false ∧ abc.accepts = false := by decide

/-- Each of those edges gives a next state. -/
theorem witness_steps :
    (∃ t, step (abc.withPins [presenting 0x300]) = .next t) ∧ (∃ t, step (abc.withPins [presenting 0x261]) = .next t) ∧
      (∃ t, step abc = .next t) ∧ (∃ t, step (abc.withPins [resetting]) = .next t) :=
  ⟨⟨_, rfl⟩, ⟨_, rfl⟩, ⟨_, rfl⟩, ⟨_, rfl⟩⟩

/-- CommandsKeepMessageInvariant, FinalEmitsHashOfAbsorbedMessage: an engine that has taken three bytes. -/
theorem witness_absorbed : abc.engine.buf.wf = true ∧ abc.engine.Absorbed [0x61, 0x62, 0x63] := by
  refine ⟨by decide, by decide, by decide, ?_, rfl, by decide⟩
  have hbytes : ∀ i, i < 3 → abc.engine.buf.read i = ([0x61, 0x62, 0x63] : List Byte).getD i 0 := by decide
  intro i hi
  simpa using hbytes i hi

/-- EveryStepKeepsInvariant: a state in the middle of a message meets State.Inv, and a step from it gives a next state. -/
theorem witness_inv : abc.Inv ∧ ∃ t, step abc = .next t :=
  ⟨⟨witness_absorbed.1, ⟨_, witness_absorbed.2⟩, fun hdv => by exact absurd hdv (by decide)⟩, ⟨_, rfl⟩⟩

/-- DigestIsHashOfMessage: both of its command lists, with NOP commands among them. -/
theorem witness_command_list :
    ([.nop, .init, .update 0x61, .nop, .final].filter (fun i => decide (i ≠ .nop)) : List Instr) =
        .init :: (([0x61] : List Byte).map Instr.update ++ [.final]) ∧
      ([.update 0x61, .nop, .final].filter (fun i => decide (i ≠ .nop)) : List Instr) =
        ([0x61] : List Byte).map Instr.update ++ [.final] := by decide

/-- ContextReusableAfterFinal, DoubleHashIsHashOfHash: the buffer of a machine in the middle of a message. -/
theorem witness_buffer_wf : abc.engine.buf.wf = true := by decide

/-- StaleStateNeverMatters: two engines that differ in a stale byte, in W and in a..h. -/
theorem witness_stale :
    abc.engine.SameButStale
        (((abc.engine.store 3 0xff).setW (Vector.replicate 16 0xdeadbeef)).setWork (Work.ofVector iv)) ∧
      abc.engine ≠ ((abc.engine.store 3 0xff).setW (Vector.replicate 16 0xdeadbeef)).setWork (Work.ofVector iv) := by
  refine ⟨⟨rfl, rfl, rfl, rfl, rfl, rfl, ?_⟩, by decide +kernel⟩
  have hbytes : ∀ i, i < 3 → abc.engine.buf.read i =
      ((((abc.engine.store 3 0xff).setW (Vector.replicate 16 0xdeadbeef)).setWork (Work.ofVector iv)).buf).read i := by
    decide
  exact fun i hi => hbytes i hi

/-- StaleStateNeverMatters: the second engine's buffer is canonical too. -/
theorem witness_stale_wf : (abc.engine.store 3 0xff).buf.wf = true := by decide

/-- StepRunsAcceptedCommand: a presented UPDATE, a ready engine, and the outcome of exec. -/
theorem witness_accepted :
    (abc.withPins [presenting 0x264]).pins = presenting 0x264 :: [] ∧ (presenting 0x264).rst = false ∧
      (presenting 0x264).cmdValid = true ∧ abc.busy = 0 ∧
      ∃ t, exec (decode (presenting 0x264).cmd) { abc with pins := [], edge := abc.edge + 1 } = .next t :=
  ⟨rfl, rfl, rfl, rfl, ⟨_, rfl⟩⟩

/-- StepRunsAcceptedCommand: a word of the opcode table. -/
theorem witness_table_word :
    decodeTableWord 16 0x300 = some .final ∧
      ∃ t, exec .final { abc with pins := abc.pins.tail, busy := 0, edge := abc.edge + 1 } = .next t :=
  ⟨by decide, ⟨_, rfl⟩⟩

/-- NothingAcceptedNothingChanges: a command presented to a busy engine, and an idle edge. -/
theorem witness_waiting :
    0 < (abc.withBusy 1).busy ∧ ((abc.withBusy 1).withPins [presenting 0x264]).accepts = false ∧
      ((abc.withBusy 1).withPins [presenting 0x264]).nowPins.rst = false ∧ abc.nowPins.cmdValid = false := by decide

/-- OnlyTheByteSequenceMatters, NopChangesNothing: an idle edge of a ready engine. -/
theorem witness_idle :
    abc.nowPins.rst = false ∧ abc.nowPins.cmdValid = false ∧ abc.cmdReady = true ∧ abc.accepts = false := by decide

/-- CommandInProgressEnds: no reset for as long as the engine is busy; a reset listed after that does no harm. -/
theorem witness_busy :
    ∀ p, p ∈ ((abc.withBusy 2).withPins [presenting 0x264, Pins.idle, resetting]).pins.take 2 → p.rst = false := by
  decide

/-- HeldCommandIsAccepted: a command held while the engine is busy for two edges. -/
theorem witness_held :
    (presenting 0x264).rst = false ∧ (presenting 0x264).cmdValid = true ∧
      ((abc.withBusy 2).withPins (List.replicate 3 (presenting 0x264) ++ [Pins.idle])).pins =
        List.replicate ((abc.withBusy 2).busy + 1) (presenting 0x264) ++ [Pins.idle] := by decide

/-- OutputsShowStatus: a ready cycle with a valid digest; its last clause is met at witness_reset_edge. -/
theorem witness_outputs :
    (abc.withEngine abc.engine.markValid).cmdReady = true ∧ (abc.withEngine abc.engine.markValid).nowPins.rst = false ∧
      (abc.withEngine abc.engine.markValid).engine.dv = true ∧
      (abc.withEngine abc.engine.markValid).digestUsable = true := by decide

end Sys2Proof.Tests
end

/-! # Proofs: the state (spec/10_state.md)

The schedule window holds the direct schedule, so COMPRESS is `compressBlock` (R123, R133); PUSH therefore extends the
byte sequence whose complete blocks H has chained and whose last bytes BUF holds; R38 follows. -/

namespace Sys2Proof.Machine

/-! ## The direct schedule (R123) -/

section DirectSchedule
variable {block block' : Nat → Word}

@[simp] theorem directSchedule_length (n : Nat) : (directSchedule block n).length = n + 16 := by
  induction n with
  | zero => simp
  | succ n ih => simp [directSchedule_succ, ih]

/-- Extending the schedule changes none of its earlier words. -/
theorem directSchedule_getD_add {n t : Nat} (ht : t < n + 16) (k : Nat) :
    (directSchedule block (n + k)).getD t 0 = (directSchedule block n).getD t 0 := by
  induction k with
  | zero => rfl
  | succ k ih =>
    rw [← Nat.add_assoc, directSchedule_succ, List.getD_append _ _ _ _ (by rw [directSchedule_length]; omega), ih]

theorem directWord_eq_getD {n t : Nat} (hn : n ≤ 48) (ht : t < n + 16) :
    directWord block t = (directSchedule block n).getD t 0 := by
  rw [directWord, ← directSchedule_getD_add ht (48 - n), Nat.add_sub_cancel' hn]

/-- The first sixteen words of the schedule are the block's. -/
theorem directWord_of_lt {t : Nat} (ht : t < 16) : directWord block t = block t := by
  rw [directWord_eq_getD (Nat.zero_le 48) (by omega), directSchedule_zero]
  simp [List.getD_eq_getElem?_getD, ht]

/-- The recurrence of the schedule, without index wrapping. -/
theorem directWord_add_sixteen {n : Nat} (hn : n < 48) :
    directWord block (n + 16) = directWord block n + smallSigma0 (directWord block (n + 1)) +
      directWord block (n + 9) + smallSigma1 (directWord block (n + 14)) := by
  have hlen : (directSchedule block n).length ≤ n + 16 := (directSchedule_length n).le
  rw [directWord_eq_getD (n := n + 1) hn (by omega), directSchedule_succ, List.getD_append_right _ _ _ _ hlen]
  simp only [directSchedule_length, Nat.sub_self, List.getD_cons_zero]
  rw [directWord_eq_getD (t := n) hn.le (by omega), directWord_eq_getD (t := n + 1) hn.le (by omega),
    directWord_eq_getD (t := n + 9) hn.le (by omega), directWord_eq_getD (t := n + 14) hn.le (by omega)]

/-- The schedule depends on the sixteen words of the block only. -/
theorem directSchedule_congr (hb : ∀ j, j < 16 → block j = block' j) (n : Nat) :
    directSchedule block n = directSchedule block' n := by
  induction n with
  | zero =>
    rw [directSchedule_zero, directSchedule_zero]
    exact List.map_congr_left fun j hj => hb j (List.mem_range.1 hj)
  | succ n ih => rw [directSchedule_succ, directSchedule_succ, ih]

end DirectSchedule

/-- `Compress` depends on the 64 bytes of the block only (R133). -/
theorem compressBlock_congr {byte byte' : Nat → Byte} (hb : ∀ k, k < 64 → byte k = byte' k) (h : Vector Word 8) :
    compressBlock h byte = compressBlock h byte' := by
  have hword : ∀ j, j < 16 → blockWord byte j = blockWord byte' j := fun j hj => by
    rw [blockWord, blockWord, hb _ (by omega), hb _ (by omega), hb _ (by omega), hb _ (by omega)]
  have hdirect : directWord (blockWord byte) = directWord (blockWord byte') := by
    funext t
    rw [directWord, directWord, directSchedule_congr hword]
  rw [compressBlock, compressBlock, hdirect]

/-! ## COMPRESS computes `compressBlock` (R123, R133) -/

/-- The window holds the last sixteen of the first n words of a block's schedule, word t in the slot t mod 16. -/
def WindowHolds (block : Nat → Word) (n : Nat) (w : Vector Word 16) : Prop :=
  ∀ t, t < n → n ≤ t + 16 → w[t % 16] = directWord block t

section Window
variable {block : Nat → Word} {w : Vector Word 16}

/-- The slot i holds word t, for every way i of writing t mod 16. -/
theorem WindowHolds.slot {n : Nat} (hw : WindowHolds block n w) {t i : Nat} (hi : i < 16) (hit : i = t % 16)
    (hlt : t < n) (hle : n ≤ t + 16) : w[i] = directWord block t := by
  subst hit
  exact hw t hlt hle

/-- SCHED_STEP(n + 16) computes the next word of the direct schedule. -/
theorem WindowHolds.windowWord_eq {n : Nat} (hn : n < 48) (hw : WindowHolds block (n + 16) w) :
    windowWord w (n + 16) = directWord block (n + 16) := by
  rw [windowWord, directWord_add_sixteen hn, hw.slot (t := n) _ (by omega) (by omega) (by omega),
    hw.slot (t := n + 1) _ (by omega) (by omega) (by omega), hw.slot (t := n + 9) _ (by omega) (by omega) (by omega),
    hw.slot (t := n + 14) _ (by omega) (by omega) (by omega)]

/-- SCHED_STEP puts the new word where the oldest one was. -/
theorem WindowHolds.set {t : Nat} (hw : WindowHolds block t w) :
    WindowHolds block (t + 1) (w.set (t % 16) (directWord block t)) := by
  intro u hlt hle
  rw [Vector.getElem_set]
  split
  · have hut : t = u := by omega
    rw [hut]
  · exact hw u (by omega) (by omega)

/-- What stands before ROUND(t) schedules word t, where the block has not given it already (R133). -/
theorem WindowHolds.prepared {t : Nat} (ht : t < 64) (hw : WindowHolds block (max t 16) w) :
    WindowHolds block (max (t + 1) 16) (preparedWindow t w) := by
  unfold preparedWindow
  split
  · next hge =>
    obtain ⟨n, rfl⟩ := Nat.exists_eq_add_of_le' hge
    rw [max_eq_left (by omega)] at hw ⊢
    rw [hw.windowWord_eq (by omega)]
    exact hw.set
  · rwa [max_eq_right (by omega)] at hw ⊢

end Window

/-- The rounds on a window that holds the block's words are the reference rounds on the direct schedule. -/
theorem Scratch.rounds_eq_refRounds {block : Nat → Word} {h : Vector Word 8} {x : Scratch}
    (hw : WindowHolds block 16 x.w) (hwork : x.work = Work.ofVector h) {n : Nat} (hn : n ≤ 64) :
    WindowHolds block (max n 16) (x.rounds n).w ∧ (x.rounds n).work = refRounds h (directWord block) n := by
  induction n with
  | zero => simpa using And.intro hw hwork
  | succ t ih =>
    obtain ⟨hwin, hregs⟩ := ih (by omega)
    have hnext := hwin.prepared (by omega : t < 64)
    rw [Scratch.rounds_succ, refRounds_succ, Scratch.round, hregs, hnext t (by omega) (by omega)]
    exact ⟨hnext, rfl⟩

/-- SCHED_LOAD fills the window with the block that BUF holds (R120). -/
theorem Engine.compressStart_windowHolds (e : Engine) :
    WindowHolds (blockWord e.buf.read) 16 e.compressStart.scratch.w := by
  intro t ht _
  have hload : e.compressStart.scratch.w = Vector.ofFn fun j : Fin 16 => bufWord e.buf j.val := rfl
  rw [directWord_of_lt ht, hload, Vector.getElem_ofFn]
  simp only [Nat.mod_eq_of_lt ht]
  rfl

/-- COMPRESS leaves in H what the reference function gives for the old H and the bytes of BUF (R133). -/
theorem Engine.compress_h_eq_compressBlock (e : Engine) : e.compress.h = compressBlock e.h e.buf.read := by
  obtain ⟨-, hwork⟩ := Scratch.rounds_eq_refRounds (h := e.h) e.compressStart_windowHolds rfl (Nat.le_refl 64)
  rw [Engine.compress_h, Engine.rounds_work, hwork, compressBlock]

/-! ## PUSH extends the chained byte sequence (R153, R158) -/

/-- Bytes behind the first j blocks do not change what those blocks chain to. -/
theorem chainBlocks_append {p : List Byte} (l : List Byte) {j : Nat} (hj : 64 * j ≤ p.length) :
    chainBlocks (p ++ l) j = chainBlocks p j := by
  induction j with
  | zero => rfl
  | succ j ih =>
    rw [chainBlocks, chainBlocks, ih (by omega)]
    exact compressBlock_congr (fun k hk => List.getD_append _ _ _ _ (by omega)) _

/-- H has chained the complete blocks of the byte sequence p, and BUF holds the bytes behind them: I2 to I4 of R38, for
any sequence of pushed bytes, padding included. -/
structure Engine.Pushed (p : List Byte) (e : Engine) : Prop where
  fill_eq : e.fill.toNat = p.length % 64
  buf_eq : ∀ i, i < e.fill.toNat → e.buf.read i = blockByte p (p.length / 64) i
  h_eq : e.h = chainBlocks p (p.length / 64)

section Push
variable {p : List Byte} {e : Engine}

/-- BUF after the store of PUSH holds the last bytes of the extended sequence, up to the index just written. -/
theorem Engine.Pushed.read_store (hp : e.Pushed p) (hwf : e.buf.wf = true) (b : Byte) {k : Nat}
    (hk : k ≤ e.fill.toNat) :
    (e.store e.pushAddress b).buf.read k = blockByte (p ++ [b]) (p.length / 64) k := by
  have hfill := hp.fill_eq
  rw [Engine.store_buf, Memory.read_write _ _ hwf, Engine.pushAddress, blockByte]
  split
  · have hend : 64 * (p.length / 64) + k = p.length := by omega
    rw [hend]
    simp
  · rw [List.getD_append _ _ _ _ (by omega)]
    exact hp.buf_eq k (by omega)

/-- PUSH(b) appends b to the chained byte sequence, whether or not it completes a block. -/
theorem Engine.Pushed.push (hp : e.Pushed p) (hwf : e.buf.wf = true) (b : Byte) :
    (e.push b).Pushed (p ++ [b]) := by
  have hfill := hp.fill_eq
  have hchain : chainBlocks (p ++ [b]) (p.length / 64) = e.h :=
    (chainBlocks_append [b] (by omega)).trans hp.h_eq.symm
  by_cases hlast : e.fill = 63
  · have hfull : e.fill.toNat = 63 := by rw [hlast]; rfl
    have hblock : (p ++ [b]).length / 64 = p.length / 64 + 1 := by simp; omega
    have hread : ∀ k, k < 64 → (e.store e.pushAddress b).buf.read k = blockByte (p ++ [b]) (p.length / 64) k :=
      fun k hk => hp.read_store hwf b (by omega)
    rw [Engine.push_last b e hlast]
    refine ⟨?_, fun i hi => absurd hi (Nat.not_lt_zero i), ?_⟩
    · simp; omega
    · rw [hblock, chainBlocks, hchain, Engine.setFill_h, Engine.compress_h_eq_compressBlock, Engine.store_h]
      exact compressBlock_congr hread e.h
  · have hbelow : e.fill.toNat < 63 := by bv_omega
    have hnext : (e.fill + 1).toNat = e.fill.toNat + 1 := by bv_omega
    have hblock : (p ++ [b]).length / 64 = p.length / 64 := by simp; omega
    rw [Engine.push_below b e hlast]
    refine ⟨?_, fun i hi => ?_, ?_⟩
    · rw [Engine.setFill_fill, hnext, List.length_append, List.length_singleton]
      omega
    · rw [Engine.setFill_fill, hnext] at hi
      rw [hblock]
      exact hp.read_store hwf b (by omega)
    · rw [hblock, hchain, Engine.setFill_h, Engine.store_h]

end Push

/-! ## The message invariant (R38) -/

section Absorbed
variable {m : List Byte} {e : Engine}

theorem Engine.Absorbed.pushed (ha : e.Absorbed m) : e.Pushed m :=
  ⟨ha.fill_eq, ha.buf_eq, ha.h_eq⟩

/-- A Fresh engine holds the empty message, whatever its stale bytes. -/
theorem Engine.IsFresh.absorbed_nil (hf : e.IsFresh) : e.Absorbed [] := by
  obtain ⟨hh, hcnt, hfill, hctx⟩ := hf
  have hempty : e.fill.toNat = 0 := by rw [hfill]; rfl
  exact ⟨hcnt, hempty, fun i hi => by omega, hh, by simp [hctx]⟩

/-- UPDATE(d) appends d to the message. -/
theorem Engine.Absorbed.updateByte (ha : e.Absorbed m) (hwf : e.buf.wf = true) (d : Byte) :
    (e.updateByte d).Absorbed (m ++ [d]) := by
  have hcounted : (e.setCnt (e.cnt + 1)).Pushed m := ⟨ha.fill_eq, ha.buf_eq, ha.h_eq⟩
  obtain ⟨hfill, hbuf, hh⟩ := hcounted.push hwf d
  refine ⟨?_, hfill, hbuf, hh, by simp⟩
  rw [Engine.updateByte_cnt, ha.cnt_eq, List.length_append, BitVec.ofNat_add]
  rfl

end Absorbed

theorem Engine.initContext_isFresh (e : Engine) : e.initContext.IsFresh :=
  ⟨rfl, rfl, rfl, rfl⟩

theorem Engine.finalDigest_isFresh (e : Engine) : e.finalDigest.IsFresh :=
  ⟨e.finalDigest_h, e.finalDigest_cnt, e.finalDigest_fill, e.finalDigest_ctx⟩

theorem Engine.resetAt_isFresh (n : Nat) : (Engine.resetAt n).IsFresh := by
  obtain ⟨hh, hcnt, hfill, hctx, -⟩ := Engine.resetAt_fields n
  exact ⟨hh, hcnt, hfill, hctx⟩

/-- Settles O39: INIT, FINAL and reset leave a Fresh engine, and UPDATE is a PUSH of its byte with CNT counted on. -/
theorem commandsKeepMessageInvariant : Obligations.CommandsKeepMessageInvariant := by
  unfold Obligations.CommandsKeepMessageInvariant
  refine ⟨fun s m hwf ha => ⟨?nop, ?init, fun d => ?update, ?final⟩, fun n => ?reset⟩
  case nop => exact ⟨s, rfl, hwf, ha⟩
  case init => exact ⟨_, rfl, s.engine.initContext_wf hwf, s.engine.initContext_isFresh.absorbed_nil⟩
  case update => exact ⟨_, rfl, s.engine.updateByte_wf d hwf, ha.updateByte hwf d⟩
  case final => exact ⟨_, rfl, s.engine.finalDigest_wf hwf, s.engine.finalDigest_isFresh.absorbed_nil⟩
  case reset => exact ⟨Engine.resetAt_wf n, (Engine.resetAt_isFresh n).absorbed_nil⟩

/-! ## The initial hash value (R22) -/

/-- The integer parts of the square roots of the first eight primes. -/
def primeRootFloors : Vector Nat 8 := #v[1, 1, 2, 2, 3, 3, 4, 4]

/-- With its integer part in front, each word of IV is the square root of its prime, in units of 2^-32, rounded down. -/
theorem iv_isSquareRoot :
    ∀ (i : Nat) (hi : i < 8),
      (primeRootFloors[i] * 2 ^ 32 + iv[i].toNat) ^ 2 ≤ [2, 3, 5, 7, 11, 13, 17, 19].getD i 0 * 2 ^ 64 ∧
        [2, 3, 5, 7, 11, 13, 17, 19].getD i 0 * 2 ^ 64 < (primeRootFloors[i] * 2 ^ 32 + iv[i].toNat + 1) ^ 2 := by
  decide

/-- Settles O1: `primeRootFloors` gives the integer part of each root. -/
theorem initialHashIsRootsOfPrimes : Obligations.InitialHashIsRootsOfPrimes := by
  have hfloor : ∀ (i : Nat) (hi : i < 8), primeRootFloors[i] < 5 := by decide
  exact ⟨rfl, fun i hi => ⟨primeRootFloors[i], hfloor i hi, iv_isSquareRoot i hi⟩⟩

end Sys2Proof.Machine

/-! # Proofs: the buffer and the byte orders (spec/20_memory.md)

Bytes next to each other join to the slice they were cut from; with that, R52 to R54 are each a statement about which
byte stands where: in BUF, in DIGEST, on the digest port, and in BUF after the padding of FINAL. -/

namespace Sys2Proof.Machine

/-! ## Joining slices of a bit vector -/

theorem toNat_append_eq_mul_add {m n : Nat} (x : BitVec m) (y : BitVec n) :
    (x ++ y).toNat = x.toNat * 2 ^ n + y.toNat := by
  rw [BitVec.toNat_append, ← Nat.shiftLeft_add_eq_or_of_lt y.isLt, Nat.shiftLeft_eq]

/-- Four bytes of a bit vector, from bit s on, the highest first, join to the word there. -/
theorem extractLsb'_eq_join {n s : Nat} {x : BitVec n} {b : Nat → Byte}
    (hb : ∀ k, k < 4 → x.extractLsb' (s + (24 - 8 * k)) 8 = b k) :
    x.extractLsb' s 32 = b 0 ++ b 1 ++ b 2 ++ b 3 := by
  rw [← hb 0 (by decide), ← hb 1 (by decide), ← hb 2 (by decide), ← hb 3 (by decide)]
  iterate 3 rw [BitVec.extractLsb'_append_extractLsb'_eq_extractLsb']
  all_goals rfl

/-- The four bytes of a word, the most significant first, join to the word (R53). -/
theorem join_wordByte (x : Word) : wordByte x 0 ++ wordByte x 1 ++ wordByte x 2 ++ wordByte x 3 = x := by
  have hbyte : ∀ k, k < 4 → x.extractLsb' (0 + (24 - 8 * k)) 8 = wordByte x k := fun k _ => by
    rw [wordByte, Nat.zero_add]
  rw [← extractLsb'_eq_join hbyte, BitVec.extractLsb'_eq_self]

/-- The eight words of a 256-bit number, the most significant first, join to the number. -/
theorem join_eight_words (x : BitVec 256) :
    x.extractLsb' 224 32 ++ x.extractLsb' 192 32 ++ x.extractLsb' 160 32 ++ x.extractLsb' 128 32 ++
      x.extractLsb' 96 32 ++ x.extractLsb' 64 32 ++ x.extractLsb' 32 32 ++ x.extractLsb' 0 32 = x := by
  iterate 7 rw [BitVec.extractLsb'_append_extractLsb'_eq_extractLsb']
  · exact BitVec.extractLsb'_eq_self
  all_goals rfl

/-! ## The words of the block (R52) -/

theorem bufWord_eq (m : Memory) (j : Nat) :
    bufWord m j = m.read (4 * j) ++ m.read (4 * j + 1) ++ m.read (4 * j + 2) ++ m.read (4 * j + 3) := rfl

/-- The block's word j as a number in base 256, the first byte its leading digit. -/
theorem bufWord_toNat (m : Memory) (j : Nat) :
    (bufWord m j).toNat =
      (m.read (4 * j)).toNat * 2 ^ 24 + (m.read (4 * j + 1)).toNat * 2 ^ 16 +
        (m.read (4 * j + 2)).toNat * 2 ^ 8 + (m.read (4 * j + 3)).toNat := by
  rw [bufWord_eq, toNat_append_eq_mul_add, toNat_append_eq_mul_add, toNat_append_eq_mul_add]
  omega

/-- Settles O14: a word of the block is the join of its bytes, and a join is a number in base 256. -/
theorem blockWordsAreBigEndian : Obligations.BlockWordsAreBigEndian := by
  unfold Obligations.BlockWordsAreBigEndian
  refine ⟨fun m j _ => ⟨bufWord_eq m j, bufWord_toNat m j⟩, fun m h0 h1 h2 h3 => ?_⟩
  rw [bufWord_eq, h0, h1, h2, h3]
  rfl

/-! ## The digest and the digest port (R53) -/

theorem serializeDigest_getElem (h : Vector Word 8) {i k : Nat} (hi : i < 8) (hk : k < 4) :
    (serializeDigest h)[4 * i + k] = wordByte h[i] k := by
  have hword : (4 * i + k) / 4 = i := by omega
  have hbyte : (4 * i + k) % 4 = k := by omega
  simp only [serializeDigest, Vector.getElem_ofFn, hword, hbyte]

/-- The port's shift puts the new byte at the bottom. -/
theorem extractLsb'_shiftLeft_or_zero (x : BitVec 256) (b : Byte) :
    ((x <<< 8) ||| b.zeroExtend 256).extractLsb' 0 8 = b := by
  apply BitVec.eq_of_getLsbD_eq
  intro k hk
  have hin : k < 256 := by omega
  simp [hk, hin]

/-- The port's shift moves every byte up by one place. -/
theorem extractLsb'_shiftLeft_or_succ (x : BitVec 256) (b : Byte) {j : Nat} (hj : j + 1 < 32) :
    ((x <<< 8) ||| b.zeroExtend 256).extractLsb' (8 * (j + 1)) 8 = x.extractLsb' (8 * j) 8 := by
  apply BitVec.eq_of_getLsbD_eq
  intro k hk
  have hplace : 8 * (j + 1) + k - 8 = 8 * j + k := by omega
  have hin : 8 * (j + 1) + k < 256 := by omega
  have habove : ¬8 * (j + 1) + k < 8 := by omega
  have hzero : b.getLsbD (8 * (j + 1) + k) = false := BitVec.getLsbD_of_ge _ _ (by omega)
  rw [BitVec.getLsbD_extractLsb', BitVec.getLsbD_extractLsb', BitVec.getLsbD_or, BitVec.getLsbD_shiftLeft,
    BitVec.getLsbD_setWidth, hzero, hplace]
  simp [hin, habove]

/-- The bytes that the port has taken, counted from the last one, stand at its bytes counted from bit 0. -/
theorem portBytes_extractLsb' (l : List Byte) {j : Nat} (hj : j < 32) :
    (l.foldl (fun (acc : BitVec 256) b => (acc <<< 8) ||| b.zeroExtend 256) 0).extractLsb' (8 * j) 8 =
      l.reverse.getD j 0 := by
  induction l using List.reverseRecOn generalizing j with
  | nil => simp
  | append_singleton l b ih =>
    rw [List.foldl_append, List.reverse_append]
    cases j with
    | zero => exact extractLsb'_shiftLeft_or_zero _ b
    | succ j => exact (extractLsb'_shiftLeft_or_succ _ b hj).trans (ih (by omega))

/-- Byte i of the digest on the port. -/
theorem digestPort_extractLsb' (d : Vector Byte 32) {i : Nat} (hi : i < 32) :
    (digestPort d).extractLsb' (248 - 8 * i) 8 = d[i] := by
  have hplace : 248 - 8 * i = 8 * (31 - i) := by omega
  have hback : 31 - (31 - i) = i := by omega
  rw [hplace, digestPort, portBytes_extractLsb' _ (by omega), List.getD_eq_getElem _ _ (by simp; omega),
    List.getElem_reverse, Vector.getElem_toList]
  simp [hback]

/-- The port of a serialization shows each word of H whole. -/
theorem digestPort_serializeDigest_word (h : Vector Word 8) {i : Nat} (hi : i < 8) :
    (digestPort (serializeDigest h)).extractLsb' (224 - 32 * i) 32 = h[i] := by
  refine (extractLsb'_eq_join (b := wordByte h[i]) fun k hk => ?_).trans (join_wordByte h[i])
  have hslice : 224 - 32 * i + (24 - 8 * k) = 248 - 8 * (4 * i + k) := by omega
  rw [hslice, digestPort_extractLsb' _ (by omega), serializeDigest_getElem h hi hk]

/-- The port of a serialization is the words of H, joined. -/
theorem digestPort_serializeDigest (h : Vector Word 8) :
    digestPort (serializeDigest h) = h[0] ++ h[1] ++ h[2] ++ h[3] ++ h[4] ++ h[5] ++ h[6] ++ h[7] := by
  have hword : ∀ (i : Nat) (hi : i < 8), (digestPort (serializeDigest h)).extractLsb' (224 - 32 * i) 32 = h[i] :=
    fun _ hi => digestPort_serializeDigest_word h hi
  rw [← join_eight_words (digestPort (serializeDigest h)), ← hword 0, ← hword 1, ← hword 2, ← hword 3, ← hword 4,
    ← hword 5, ← hword 6, ← hword 7]

/-- Settles O15: the bytes of each word in DIGEST, the bytes of DIGEST on the port, and both together. -/
theorem digestIsBigEndian : Obligations.DigestIsBigEndian :=
  ⟨fun h _ _ hi hk => serializeDigest_getElem h hi hk, fun d _ hi => digestPort_extractLsb' d hi,
    digestPort_serializeDigest⟩

/-! ## The length field in BUF (R54, R155) -/

/-- The zero loop ends at index 56 when it is allowed the PUSHes that are missing (R156). -/
theorem Engine.padZeros_fill (n : Nat) (e : Engine) (hn : (56 - e.fill).toNat ≤ n) :
    (Engine.padZeros n e).fill = 56 := by
  induction n generalizing e with
  | zero =>
    rw [Engine.padZeros]
    bv_omega
  | succ n ih =>
    rw [Engine.padZeros]
    split
    · assumption
    · next hne =>
      refine ih (e.push 0x00) ?_
      rw [Engine.push_fill]
      bv_omega

/-- What BUF holds after PUSHes that do not go past its end: the old bytes below FILL, and the pushed ones from FILL
on. -/
theorem Engine.read_pushAll (bs : List Byte) (e : Engine) (hwf : e.buf.wf = true)
    (hfit : e.fill.toNat + bs.length ≤ 64) (a : Nat) :
    (Engine.pushAll bs e).buf.read a =
      if a < e.fill.toNat then e.buf.read a else bs.getD (a - e.fill.toNat) (e.buf.read a) := by
  induction bs generalizing e with
  | nil => simp [Engine.pushAll]
  | cons b rest ih =>
    rw [List.length_cons] at hfit
    have hstore : (e.push b).buf.read a = if a = e.fill.toNat then b else e.buf.read a := by
      rw [Engine.push_buf, Memory.read_write _ _ hwf, Engine.pushAddress]
    have hrest : (Engine.pushAll rest (e.push b)).buf.read a =
        if a < e.fill.toNat + 1 then (e.push b).buf.read a
        else rest.getD (a - (e.fill.toNat + 1)) ((e.push b).buf.read a) := by
      cases rest with
      | nil => simp [Engine.pushAll]
      | cons c rest =>
        have hnext : (e.push b).fill.toNat = e.fill.toNat + 1 := by
          rw [List.length_cons] at hfit
          rw [Engine.push_fill]
          bv_omega
        rw [ih (e.push b) (e.push_wf b hwf) (by omega), hnext]
    rw [Engine.pushAll, hrest, hstore]
    obtain hlt | rfl | hgt := Nat.lt_trichotomy a e.fill.toNat
    · rw [if_pos (by omega), if_neg (by omega), if_pos hlt]
    · simp
    · have hplace : a - e.fill.toNat = a - (e.fill.toNat + 1) + 1 := by omega
      rw [if_neg (by omega), if_neg (by omega), if_neg (by omega), hplace, List.getD_cons_succ]

theorem lengthBytes_getD (len : BitLength) {i : Nat} (hi : i < 8) (d : Byte) :
    (lengthBytes len).getD i d = lengthByte len i := by
  interval_cases i <;> rfl

/-- After the padding, byte i of the length field stands at index 56 + i of BUF (R54). -/
theorem Engine.pad_read_lengthByte (e : Engine) (hwf : e.buf.wf = true) {i : Nat} (hi : i < 8) :
    e.pad.buf.read (56 + i) = lengthByte (messageLength e.cnt) i := by
  have hfill : (Engine.padZeros 63 (e.push 0x80)).fill = 56 := Engine.padZeros_fill 63 _ (by bv_omega)
  obtain ⟨-, -, -, -, hkeeps⟩ := Engine.padZeros_frame 63 (e.push 0x80)
  have hplace : 56 + i - (56 : FillIndex).toNat = i := Nat.add_sub_cancel_left 56 i
  have hfits : (Engine.padZeros 63 (e.push 0x80)).fill.toNat + (lengthBytes (messageLength e.cnt)).length ≤ 64 := by
    rw [hfill]
    exact Nat.le_refl 64
  rw [Engine.pad, Engine.read_pushAll _ _ (hkeeps (e.push_wf 0x80 hwf)) hfits, hfill, if_neg (by simp), hplace,
    lengthBytes_getD _ hi]

theorem messageLength_eq (cnt : Count) : messageLength cnt = BitVec.ofNat 64 (8 * cnt.toNat) := by
  rw [messageLength, Nat.mul_comm]

/-- After the padding, words 14 and 15 of the block are the two halves of the length field, the high one first. -/
theorem Engine.pad_bufWord_length (e : Engine) (hwf : e.buf.wf = true) {w : Nat} (hw : w < 2) :
    bufWord e.pad.buf (14 + w) = (messageLength e.cnt).extractLsb' (32 - 32 * w) 32 := by
  refine (extractLsb'_eq_join (b := fun k => e.pad.buf.read (4 * (14 + w) + k)) fun k hk => ?_).symm
  have hindex : 4 * (14 + w) + k = 56 + (4 * w + k) := by omega
  have hslice : 32 - 32 * w + (24 - 8 * k) = 56 - 8 * (4 * w + k) := by omega
  rw [hindex, hslice, e.pad_read_lengthByte hwf (by omega), lengthByte]

/-- Settles O16: FINAL leaves in BUF what the padding put there, and the length bytes are the last eight of it. -/
theorem lengthFieldIsBigEndian : Obligations.LengthFieldIsBigEndian := by
  unfold Obligations.LengthFieldIsBigEndian
  intro s hwf
  refine ⟨_, rfl, ?_⟩
  rw [State.withEngine_engine, Engine.finalDigest_buf, ← messageLength_eq]
  exact ⟨fun i hi => s.engine.pad_read_lengthByte hwf hi, s.engine.pad_bufWord_length hwf (w := 0) (by decide),
    s.engine.pad_bufWord_length hwf (w := 1) (by decide)⟩

end Sys2Proof.Machine

/-! # Proofs: the encoding (spec/30_encoding.md)

The mask of the opcode table cuts the op field out of a word, and op alone selects the command (R82, R83). A list of
commands is a byte sequence with NOP commands among it, which change nothing (R89, R160). -/

namespace Sys2Proof

/-! ## The op field (R80, R82) -/

section OpField
variable {c : Cmd}

theorem decode_of_op_zero (h : cmdOp c = 0) : decode c = .nop := if_pos h

theorem decode_of_op_one (h : cmdOp c = 1) : decode c = .init := by
  simp [decode, h]

theorem decode_of_op_two (h : cmdOp c = 2) : decode c = .update (cmdData c) := by
  simp [decode, h]

theorem decode_of_op_three (h : cmdOp c = 3) : decode c = .final := by
  simp [decode, h]

end OpField

/-- A word is its op field over its data field. -/
theorem cmdOp_append_cmdData (c : Cmd) : cmdOp c ++ cmdData c = c := by
  have hjoin : cmdOp c ++ cmdData c = c.extractLsb' 0 10 :=
    BitVec.extractLsb'_append_extractLsb'_eq_extractLsb' (Nat.zero_add 8).symm
  rw [hjoin, BitVec.extractLsb'_eq_self]

/-- Under the table's mask a word is its op field over no data. -/
theorem and_tableMask (c : Cmd) : c &&& tableMask = cmdOp c ++ 0#8 := by
  have hmask : tableMask = BitVec.allOnes 2 ++ 0#8 := rfl
  calc
    c &&& tableMask = (cmdOp c ++ cmdData c) &&& (BitVec.allOnes 2 ++ 0#8) := by rw [cmdOp_append_cmdData, hmask]
    _ = cmdOp c ++ 0#8 := by rw [BitVec.and_append, BitVec.and_allOnes, BitVec.and_zero]

/-- A word matches the row of a command exactly when its op field holds the op of that row. -/
theorem and_tableMask_eq_tableMatch_iff (c : Cmd) (i : Instr) : c &&& tableMask = i.tableMatch ↔ cmdOp c = i.op := by
  have hrow : i.tableMatch = i.op ++ 0#8 := by
    cases i <;> rw [Instr.tableMatch, Instr.op] <;> rfl
  rw [and_tableMask, hrow]
  exact BitVec.append_left_inj _

/-- The four rows leave no word out. -/
theorem cmdOp_cases (c : Cmd) : cmdOp c = 0 ∨ cmdOp c = 1 ∨ cmdOp c = 2 ∨ cmdOp c = 3 := by
  have hop : ∀ x : BitVec 2, x = 0 ∨ x = 1 ∨ x = 2 ∨ x = 3 := by decide
  exact hop (cmdOp c)

/-- The canonical word of an UPDATE is the row's match with the byte added (R83). -/
theorem encode_update (d : Byte) : encode (.update d) = 0x200 + d.zeroExtend 10 := by
  apply BitVec.eq_of_toNat_eq
  have hword : (encode (.update d)).toNat = 2 * 2 ^ 8 + d.toNat := Machine.toNat_append_eq_mul_add 2#2 d
  rw [hword]
  bv_omega

/-- Settles O10: a row's mask and match say what op is, and the decoder reads op alone. -/
theorem everyWordSpellsOneCommand : Obligations.EveryWordSpellsOneCommand := by
  unfold Obligations.EveryWordSpellsOneCommand
  have hrow := and_tableMask_eq_tableMatch_iff
  refine ⟨fun c => ⟨fun h => ?nop, fun h => ?init, fun h => ?update, fun h => ?final, ?rows⟩, rfl, rfl, rfl,
    encode_update, rfl, rfl, rfl, rfl, rfl⟩
  case nop => exact decode_of_op_zero ((hrow c .nop).1 h)
  case init => exact decode_of_op_one ((hrow c .init).1 h)
  case update => exact decode_of_op_two ((hrow c (.update 0)).1 h)
  case final => exact decode_of_op_three ((hrow c .final).1 h)
  case rows =>
    obtain hop | hop | hop | hop := cmdOp_cases c
    · exact .inl ((hrow c .nop).2 hop)
    · exact .inr (.inl ((hrow c .init).2 hop))
    · exact .inr (.inr (.inl ((hrow c (.update 0)).2 hop)))
    · exact .inr (.inr (.inr ((hrow c .final).2 hop)))

end Sys2Proof

namespace Sys2Proof.Machine

/-! ## Lists of commands (R88, R89, R160) -/

section RunCommands
variable {i : Instr} {l l' : List Instr} {s t : State}

theorem runCommands_cons_of_exec (h : exec i s = .next t) : runCommands (i :: l) s = runCommands l t := by
  rw [runCommands, h]

@[simp] theorem runCommands_nop_cons : runCommands (.nop :: l) s = runCommands l s :=
  runCommands_cons_of_exec rfl

/-- Two lists that run alike from every state run alike behind a command too. -/
theorem runCommands_cons_congr (h : ∀ s, runCommands l s = runCommands l' s) :
    runCommands (i :: l) s = runCommands (i :: l') s := by
  obtain ⟨e, he⟩ := exec_engine i s
  rw [runCommands_cons_of_exec he, runCommands_cons_of_exec he, h]

end RunCommands

/-- NOP commands among the commands make no difference. -/
theorem runCommands_filter_ne_nop (l : List Instr) (s : State) :
    runCommands (l.filter (fun i => decide (i ≠ .nop))) s = runCommands l s := by
  induction l generalizing s with
  | nil => rfl
  | cons i l ih =>
    by_cases hnop : i = .nop
    · subst hnop
      rw [List.filter_cons_of_neg (by simp), runCommands_nop_cons, ih]
    · rw [List.filter_cons_of_pos (by simpa using hnop)]
      exact runCommands_cons_congr ih

/-- The UPDATE commands of the chunks of a message, one chunk after another, are those of the message. -/
theorem flatten_map_updateCommands (chunks : List (List Byte)) :
    (chunks.map updateCommands).flatten = updateCommands chunks.flatten :=
  List.map_flatten.symm

/-- With rst = 0, an edge that accepts nothing only waits (R32). -/
theorem step_of_not_accepts {s : State} (hrst : s.nowPins.rst = false) (hacc : s.accepts = false) :
    step s = .next s.wait.nextEdge := by
  simp [step, hrst, hacc]

/-- Settles O45: chunks give the same UPDATE commands, a NOP runs to its own state, and an idle edge only waits. -/
theorem onlyTheByteSequenceMatters : Obligations.OnlyTheByteSequenceMatters :=
  ⟨flatten_map_updateCommands, fun l s => (runCommands_filter_ne_nop l s).symm,
    fun _ hrst _ hacc => ⟨_, step_of_not_accepts hrst hacc, rfl⟩⟩

end Sys2Proof.Machine

/-! # Proofs: rotations and mixing functions (spec/40_rotate_and_mix.md)

A right rotation reads bit (i + n) mod 32, so rotations add and a left rotation is a right one by 32 - n mod 32; every
law of the rotations and of the Sigma functions rests on that. Ch and Maj are their bit laws. -/

namespace Sys2Proof.Machine

/-! ## The word of 32 ones -/

theorem ones_eq_allOnes : (0xffffffff : Word) = BitVec.allOnes 32 := rfl

theorem getLsbD_ones {i : Nat} (hi : i < 32) : (0xffffffff : Word).getLsbD i = true := by
  rw [ones_eq_allOnes, BitVec.getLsbD_allOnes, decide_eq_true hi]

/-! ## Rotations (R100 to R102) -/

section Rotations
variable {i m n : Nat} {x : Word}

/-- The bit law of R101. -/
theorem getLsbD_rotr32 (hi : i < 32) : (rotr32 x n).getLsbD i = x.getLsbD ((i + n % 32) % 32) := by
  rw [rotr32, BitVec.getLsbD_rotateRight, Bool.cond_decide]
  split
  · have hstay : (i + n % 32) % 32 = n % 32 + i := by omega
    rw [hstay]
  · have hwrap : (i + n % 32) % 32 = i - (32 - n % 32) := by omega
    simp [hi, hwrap]

/-- A left rotation by n is a right rotation by the rest of 32 (R102). -/
theorem rotl32_eq_rotr32 (x : Word) (n : Nat) : rotl32 x n = rotr32 x (32 - n % 32) := by
  apply BitVec.eq_of_getLsbD_eq
  intro i hi
  rw [getLsbD_rotr32 hi, rotl32, BitVec.getLsbD_rotateLeft, Bool.cond_decide]
  split
  · have hwrap : (i + (32 - n % 32) % 32) % 32 = 32 - n % 32 + i := by omega
    rw [hwrap]
  · have hstay : (i + (32 - n % 32) % 32) % 32 = i - n % 32 := by omega
    simp [hi, hstay]

/-- Only count mod 32 matters. -/
theorem rotr32_congr (h : m % 32 = n % 32) : rotr32 x m = rotr32 x n := by
  apply BitVec.eq_of_getLsbD_eq
  intro i hi
  rw [getLsbD_rotr32 hi, getLsbD_rotr32 hi, h]

theorem rotr32_eq_self (h : n % 32 = 0) : rotr32 x n = x := by
  apply BitVec.eq_of_getLsbD_eq
  intro i hi
  rw [getLsbD_rotr32 hi, h, Nat.add_zero, Nat.mod_eq_of_lt hi]

/-- Rotations one after another add up. -/
theorem rotr32_rotr32 (x : Word) (m n : Nat) : rotr32 (rotr32 x m) n = rotr32 x (m + n) := by
  apply BitVec.eq_of_getLsbD_eq
  intro i hi
  rw [getLsbD_rotr32 hi, getLsbD_rotr32 (Nat.mod_lt _ (by decide)), getLsbD_rotr32 hi]
  congr 1
  omega

theorem rotr32_zero (n : Nat) : rotr32 0x00000000 n = 0x00000000 := by
  apply BitVec.eq_of_getLsbD_eq
  intro i hi
  simp [getLsbD_rotr32 hi]

theorem rotr32_ones (n : Nat) : rotr32 0xffffffff n = 0xffffffff := by
  apply BitVec.eq_of_getLsbD_eq
  intro i hi
  rw [getLsbD_rotr32 hi, getLsbD_ones hi, getLsbD_ones (Nat.mod_lt _ (by decide))]

/-- A right rotation by n is a left rotation by the rest of 32. -/
theorem rotr32_eq_rotl32 (x : Word) (n : Nat) : rotr32 x n = rotl32 x (32 - n % 32) := by
  rw [rotl32_eq_rotr32]
  exact rotr32_congr (by omega)

/-- The sum of R100: the bits that leave on the left come back below those that stay. -/
theorem toNat_rotl32 (h : 0 < n % 32) :
    (rotl32 x n).toNat = x.toNat * 2 ^ (n % 32) % 2 ^ 32 + x.toNat / 2 ^ (32 - n % 32) := by
  have hpow : 2 ^ 32 = 2 ^ (32 - n % 32) * 2 ^ (n % 32) := by rw [← Nat.pow_add]; congr 1; omega
  have hlow : x.toNat / 2 ^ (32 - n % 32) < 2 ^ (n % 32) :=
    Nat.div_lt_of_lt_mul (hpow ▸ x.isLt)
  rw [rotl32, BitVec.toNat_rotateLeft, Nat.shiftLeft_eq, Nat.shiftRight_eq_div_pow, hpow, Nat.mul_mod_mul_right,
    ← Nat.shiftLeft_eq, Nat.shiftLeft_add_eq_or_of_lt hlow]

/-- The sum of R101. -/
theorem toNat_rotr32 (h : 0 < n % 32) :
    (rotr32 x n).toNat = x.toNat / 2 ^ (n % 32) + x.toNat * 2 ^ (32 - n % 32) % 2 ^ 32 := by
  have hmod : (32 - n % 32) % 32 = 32 - n % 32 := by omega
  have hrest : 32 - (32 - n % 32) = n % 32 := by omega
  rw [rotr32_eq_rotl32, toNat_rotl32 (by omega), hmod, hrest, Nat.add_comm]

end Rotations

/-- Settles O4: the bit law gives all of it but the sum, which is that of the left rotation by 32 - n. -/
theorem rotateRightMovesBitsCircularly : Obligations.RotateRightMovesBitsCircularly := fun x count =>
  ⟨rotr32_eq_self, toNat_rotr32, fun _ hi => getLsbD_rotr32 hi, rotr32_congr (Nat.mod_mod count 32).symm,
    rotr32_zero count, rotr32_ones count, by decide, by decide⟩

/-- Settles O3: as the right rotation by 32 - n, but for the sum. -/
theorem rotateLeftMovesBitsCircularly : Obligations.RotateLeftMovesBitsCircularly := by
  intro x count
  refine ⟨fun h => ?_, toNat_rotl32, fun i hi => ?_, ?_, ?_, ?_, by decide, by decide⟩
  · rw [rotl32_eq_rotr32, rotr32_eq_self (by omega)]
  · rw [rotl32_eq_rotr32, getLsbD_rotr32 (Nat.mod_lt _ (by decide))]
    congr 1
    omega
  · rw [rotl32_eq_rotr32, rotl32_eq_rotr32, Nat.mod_mod]
  · rw [rotl32_eq_rotr32, rotr32_zero]
  · rw [rotl32_eq_rotr32, rotr32_ones]

/-- Settles O5: left by n and right by n is right by 32 - n mod 32 + n, a multiple of 32. -/
theorem rotationsAreInverse : Obligations.RotationsAreInverse := by
  refine ⟨fun x n => ⟨?_, ?_⟩, by decide, by decide⟩
  · rw [rotl32_eq_rotr32, rotr32_rotr32, rotr32_eq_self (by omega)]
  · rw [rotl32_eq_rotr32]
    exact rotr32_congr (Nat.mod_mod _ 32).symm

/-! ## Shift and addition (R103, R104) -/

theorem toNat_shr32 (x : Word) (n : Nat) : (shr32 x n).toNat = x.toNat / 2 ^ n := by
  rw [shr32, BitVec.toNat_ushiftRight, Nat.shiftRight_eq_div_pow]

theorem getLsbD_shr32 (x : Word) (n i : Nat) : (shr32 x n).getLsbD i = x.getLsbD (i + n) := by
  rw [shr32, BitVec.getLsbD_ushiftRight, Nat.add_comm]

/-- Settles O6: the shift is a quotient on numbers, and ADD32 is the addition of words. -/
theorem shiftAndAddAreArithmetic : Obligations.ShiftAndAddAreArithmetic :=
  ⟨fun x n _ => toNat_shr32 x n, fun x => BitVec.ushiftRight_zero x, by decide, by decide,
    fun x y => ⟨BitVec.toNat_add x y, rfl⟩, BitVec.add_comm, BitVec.add_assoc, fun x => BitVec.add_zero x,
    by decide, by decide, by decide⟩

/-! ## Choice and majority (R105, R106) -/

/-- A bit of Ch is that of y or of z as that of x says. -/
theorem getLsbD_ch (x y z : Word) (i : Nat) :
    (ch x y z).getLsbD i = if x.getLsbD i then y.getLsbD i else z.getLsbD i := by
  rw [ch, BitVec.getLsbD_xor, BitVec.getLsbD_and, BitVec.getLsbD_xor]
  cases x.getLsbD i
  case false => simp
  case true => simp [Bool.xor_left_comm]

/-- A bit of Maj is 1 when at least two of the three bits are. -/
theorem getLsbD_maj (x y z : Word) (i : Nat) :
    (maj x y z).getLsbD i =
      decide (2 ≤ (x.getLsbD i).toNat + (y.getLsbD i).toNat + (z.getLsbD i).toNat) := by
  rw [maj, BitVec.getLsbD_or, BitVec.getLsbD_and, BitVec.getLsbD_and, BitVec.getLsbD_or]
  generalize x.getLsbD i = a, y.getLsbD i = b, z.getLsbD i = c
  revert a b c
  decide

/-- The form of Ch that FIPS 180-4 prints. -/
theorem ch_eq_xor (x y z : Word) : ch x y z = (x &&& y) ^^^ (~~~x &&& z) := by
  apply BitVec.eq_of_getLsbD_eq
  intro i hi
  rw [getLsbD_ch, BitVec.getLsbD_xor, BitVec.getLsbD_and, BitVec.getLsbD_and, BitVec.getLsbD_not, decide_eq_true hi]
  cases x.getLsbD i <;> simp

/-- The form of Maj that FIPS 180-4 prints. -/
theorem maj_eq_xor (x y z : Word) : maj x y z = (x &&& y) ^^^ (x &&& z) ^^^ (y &&& z) := by
  apply BitVec.eq_of_getLsbD_eq
  intro i hi
  simp only [getLsbD_maj, BitVec.getLsbD_xor, BitVec.getLsbD_and]
  generalize x.getLsbD i = a, y.getLsbD i = b, z.getLsbD i = c
  revert a b c
  decide

theorem ch_ones (y z : Word) : ch 0xffffffff y z = y := by
  apply BitVec.eq_of_getLsbD_eq
  intro i hi
  rw [getLsbD_ch, getLsbD_ones hi, if_pos rfl]

theorem ch_zero (y z : Word) : ch 0 y z = z := by
  apply BitVec.eq_of_getLsbD_eq
  intro i _
  simp [getLsbD_ch]

theorem ch_self (x y : Word) : ch x y y = y := by
  apply BitVec.eq_of_getLsbD_eq
  intro i _
  rw [getLsbD_ch, ite_self]

theorem maj_comm (x y z : Word) : maj x y z = maj y x z := by
  rw [maj, maj, BitVec.and_comm x y, BitVec.or_comm x y]

theorem maj_right_comm (x y z : Word) : maj x y z = maj x z y := by
  apply BitVec.eq_of_getLsbD_eq
  intro i _
  rw [getLsbD_maj, getLsbD_maj, Nat.add_right_comm]

theorem maj_self (x z : Word) : maj x x z = x := by
  apply BitVec.eq_of_getLsbD_eq
  intro i _
  rw [getLsbD_maj]
  cases x.getLsbD i <;> cases z.getLsbD i <;> rfl

theorem maj_zero (y z : Word) : maj 0 y z = y &&& z := by
  simp [maj, BitVec.and_comm z y]

theorem maj_ones (y z : Word) : maj 0xffffffff y z = y ||| z := by
  rw [ones_eq_allOnes, maj, BitVec.allOnes_and, BitVec.allOnes_or, BitVec.and_allOnes]

/-- Settles O7: the bit laws, and from them the other forms and the corner cases. -/
theorem choiceAndMajority : Obligations.ChoiceAndMajority :=
  ⟨fun x y z => ⟨rfl, getLsbD_ch x y z, ch_eq_xor x y z, ch_ones y z, ch_zero y z, ch_self x y⟩, by decide,
    fun x y z => ⟨rfl, getLsbD_maj x y z, maj_eq_xor x y z, maj_comm x y z, maj_right_comm x y z, maj_self x z,
      maj_zero y z, maj_ones y z⟩, by decide⟩

/-! ## The Sigma functions (R107 to R110) -/

/-- A bit of the common part of the four functions. -/
theorem getLsbD_xorRotations {i : Nat} (r s : Nat) (third x : Word) (hi : i < 32) :
    (xorRotations r s third x).getLsbD i =
      ((x.getLsbD ((i + r % 32) % 32) ^^ x.getLsbD ((i + s % 32) % 32)) ^^ third.getLsbD i) := by
  rw [xorRotations, BitVec.getLsbD_xor, BitVec.getLsbD_xor, getLsbD_rotr32 hi, getLsbD_rotr32 hi]

/-- Settles O8: each function is two rotations and a third term, whose bits the laws above give. -/
theorem sigmaFunctionsBitByBit : Obligations.SigmaFunctionsBitByBit := by
  refine ⟨fun x i hi => ⟨?_, ?_, ?_, ?_⟩, fun x => ⟨rfl, rfl, rfl, rfl⟩, ?_⟩
  · rw [bigSigma0, getLsbD_xorRotations _ _ _ _ hi, getLsbD_rotr32 hi]
  · rw [bigSigma1, getLsbD_xorRotations _ _ _ _ hi, getLsbD_rotr32 hi]
  · rw [smallSigma0, getLsbD_xorRotations _ _ _ _ hi, getLsbD_shr32]
  · rw [smallSigma1, getLsbD_xorRotations _ _ _ _ hi, getLsbD_shr32]
  · decide

end Sys2Proof.Machine

/-! # Proofs: the message schedule (spec/41_message_schedule.md)

SCHED_LOAD fills the window, SCHED_STEP rewrites one slot of it before a round, and `WindowHolds`, the invariant of the
rounds, says that the window is the last sixteen words of the direct schedule; each statement reads that off. -/

namespace Sys2Proof.Machine

/-! ## SCHED_LOAD (R120) -/

@[simp] theorem Engine.schedLoad_getElem (e : Engine) {j : Nat} (hj : j < 16) : e.schedLoad.w[j] = bufWord e.buf j := by
  rw [Engine.schedLoad]
  exact Vector.getElem_ofFn hj

/-- Settles O17: the window after SCHED_LOAD slot by slot, and COMPRESS as its rounds. -/
theorem scheduleLoadFillsWindow : Obligations.ScheduleLoadFillsWindow :=
  fun e => ⟨fun _ hj => e.schedLoad_getElem hj, rfl, e.compress_eq⟩

/-! ## SCHED_STEP (R121) -/

section SchedStep
variable (e : Engine) (t : Nat)

theorem Engine.schedStep_getElem_same : (e.schedStep t).w[t % 16] = windowWord e.w t := by
  simp only [Engine.schedStep_slots, Vector.getElem_set_self]

theorem Engine.schedStep_getElem_ne {k : Nat} (hk : k < 16) (hne : k ≠ t % 16) : (e.schedStep t).w[k] = e.w[k] := by
  simp only [Engine.schedStep_slots, Vector.getElem_set_ne _ hk hne.symm]

/-- The four slots that SCHED_STEP(t) reads are different: t + 1, t + 9 and t + 14 are 1, 9 and 14 slots ahead of t. -/
theorem schedStep_slots_nodup : [t % 16, (t + 1) % 16, (t + 9) % 16, (t + 14) % 16].Nodup := by
  simp only [List.nodup_cons, List.mem_cons, List.not_mem_nil, List.nodup_nil, not_false_eq_true, or_false, and_true]
  omega

end SchedStep

/-- Settles O18: the window after SCHED_STEP slot by slot, and the rounds with one more. -/
theorem scheduleStepRewritesOneSlot : Obligations.ScheduleStepRewritesOneSlot :=
  ⟨fun t e _ _ =>
      ⟨e.schedStep_getElem_same t, fun _ hk hne => e.schedStep_getElem_ne t hk hne, rfl, schedStep_slots_nodup t⟩,
    fun t e _ => e.rounds_succ t⟩

/-! ## The circular window and the direct schedule (R122, R123) -/

section Circular
variable (e : Engine) {t : Nat}

@[simp] theorem Engine.prepareRound_w (t : Nat) : (e.prepareRound t).w = preparedWindow t e.w := by
  unfold Engine.prepareRound preparedWindow
  split
  · exact e.schedStep_slots t
  · rfl

/-- Before ROUND(t) of a COMPRESS, without its SCHED_STEP, the window holds the direct schedule of BUF's words. -/
theorem Engine.rounds_windowHolds (ht : t ≤ 64) :
    WindowHolds (bufWord e.buf) (max t 16) (Engine.rounds t e.compressStart).w :=
  (Scratch.rounds_eq_refRounds (h := e.h) e.compressStart_windowHolds rfl ht).1

/-- `SchedWord(t)` is the word of the direct schedule (R123). -/
theorem Engine.schedWord_eq_directWord (ht : t < 64) : e.schedWord t = directWord (bufWord e.buf) t := by
  have hprepared := (e.rounds_windowHolds ht.le).prepared ht
  simp only [Engine.schedWord, Engine.prepareRound_w]
  exact hprepared t (by omega) (by omega)

end Circular

/-- Settles O19: `WindowHolds` before each round gives the words, and after the 64 rounds the final window. -/
theorem circularScheduleEqualsDirect : Obligations.CircularScheduleEqualsDirect :=
  fun e => ⟨fun _ ht => e.schedWord_eq_directWord ht,
    fun _ hi => (e.rounds_windowHolds (Nat.le_refl 64)).slot hi (by omega) (by omega) (by omega)⟩

end Sys2Proof.Machine

/-! # Proofs: the compression engine (spec/42_compression.md)

The reference rounds and the direct schedule give a..h and W after the 64 rounds, so the whole state after COMPRESS.
The rotating form is simulated by the shifting one: reading the registers out of their slots turns its round into
`Work.mix`. -/

namespace Sys2Proof.Machine

/-! ## WORK_LOAD, ROUND and FEEDFWD (R130 to R132) -/

theorem Engine.compress_eq_microOps (e : Engine) : e.compress = (Engine.rounds 64 e.schedLoad.workLoad).feedFwd := by
  rw [compress_eq, compressStart]

/-- Settles O21: each micro-operation is the assignment its rule writes, and the rounds write no H. -/
theorem workLoadAndFeedForward : Obligations.WorkLoadAndFeedForward := fun e => by
  refine ⟨rfl, rfl, ?_, e.compress_eq_microOps⟩
  rw [Engine.rounds_h, Engine.workLoad_h, Engine.schedLoad_h]

/-- Settles O22: ROUND(t) is `Work.mix` on a..h; the numbers of the example are computed. -/
theorem roundMixesWorkingRegisters : Obligations.RoundMixesWorkingRegisters :=
  ⟨fun _ _ _ => rfl, by decide⟩

/-! ## COMPRESS as a whole state (R133) -/

section Compress
variable (e : Engine)

/-- The window after the 64 rounds, as one vector (R123). -/
theorem Engine.rounds_compressStart_w :
    (Engine.rounds 64 e.compressStart).w =
      Vector.ofFn fun i : Fin 16 => directWord (blockWord e.buf.read) (48 + i.val) := by
  obtain ⟨-, hfinal⟩ := circularScheduleEqualsDirect e
  ext i hi
  rw [hfinal i hi, Vector.getElem_ofFn]
  rfl

/-- The working registers after the 64 rounds are the reference function's. -/
theorem Engine.rounds_compressStart_work :
    (Engine.rounds 64 e.compressStart).work = refRounds e.h (directWord (blockWord e.buf.read)) 64 := by
  have hstart : e.compressStart.scratch.work = Work.ofVector e.h := by
    rw [scratch, compressStart, workLoad_work, schedLoad_h]
  exact (Scratch.rounds_eq_refRounds e.compressStart_windowHolds hstart (Nat.le_refl 64)).2

/-- Of writes of W and a..h the last ones count. -/
theorem Engine.setW_setWork_setW_setWork (w w' : Vector Word 16) (x x' : Work) :
    (((e.setW w).setWork x).setW w').setWork x' = (e.setW w').setWork x' := rfl

theorem Engine.setW_setWork_setH (w : Vector Word 16) (x : Work) (v : Vector Word 8) :
    ((e.setW w).setWork x).setH v = { e with h := v, work := x, w := w } := rfl

/-- The 64 rounds and what starts them write W and a..h, and nothing else. -/
theorem Engine.rounds_compressStart :
    Engine.rounds 64 e.compressStart =
      (e.setW (Engine.rounds 64 e.compressStart).w).setWork (Engine.rounds 64 e.compressStart).work := by
  rw [rounds_w, rounds_work, rounds, compressStart, workLoad, schedLoad, setW_setWork_setW_setWork]

end Compress

theorem compressBlock_eq (h : Vector Word 8) (block : Nat → Byte) :
    compressBlock h block = feedForward h (refRounds h (directWord (blockWord block)) 64) := by
  rw [compressBlock]

/-- COMPRESS as a whole state: the values that H, a..h and W take, and no other field changed. -/
theorem Engine.compress_eq_compressBlock (e : Engine) :
    e.compress = { e with
      h := compressBlock e.h e.buf.read
      work := refRounds e.h (directWord (blockWord e.buf.read)) 64
      w := Vector.ofFn fun i : Fin 16 => directWord (blockWord e.buf.read) (48 + i.val) } := by
  rw [compress_eq, feedFwd, rounds_h, compressStart_h, rounds_compressStart, setW_setWork_setH, setWork_work,
    rounds_compressStart_w, rounds_compressStart_work, compressBlock_eq]

/-- Settles O23: the order of the micro-operations, the whole state, and that the reference function reads 64 bytes. -/
theorem compressIsFunctionOfHashAndBuffer : Obligations.CompressIsFunctionOfHashAndBuffer :=
  ⟨fun e => ⟨e.compress_eq_microOps, e.compress_eq_compressBlock⟩,
    fun h _ _ hbytes => compressBlock_congr hbytes h, compressBlock_eq⟩

/-! ## The rotating-register form (R134) -/

section Rotating
variable (t : Nat)

theorem slotOf_lt (r : Nat) : slotOf t r < 8 :=
  Nat.mod_lt _ (by decide)

/-- Different registers are in different slots. -/
theorem slotOf_inj {r s : Nat} (hr : r < 8) (hs : s < 8) : slotOf t r = slotOf t s ↔ r = s := by
  unfold slotOf
  omega

/-- The new a is written where h was. -/
theorem slotOf_succ_zero : slotOf (t + 1) 0 = slotOf t 7 := by
  unfold slotOf
  omega

/-- Every other register is where the register before it was. -/
theorem slotOf_succ_succ (r : Nat) : slotOf (t + 1) (r + 1) = slotOf t r := by
  unfold slotOf
  omega

/-- The logical register r before round t. -/
def logicalReg (p : Vector Word 8) (r : Nat) : Word :=
  p[slotOf t r]'(slotOf_lt t r)

/-- The working registers a..h as they stand in the physical array before round t. -/
def logicalWork (p : Vector Word 8) : Work :=
  ⟨logicalReg t p 0, logicalReg t p 1, logicalReg t p 2, logicalReg t p 3,
   logicalReg t p 4, logicalReg t p 5, logicalReg t p 6, logicalReg t p 7⟩

/-- A round in place, slot by slot: h becomes T1 + T2, d becomes d + T1, and the six others stay. -/
theorem logicalReg_rotatingRound (k w : Word) (p : Vector Word 8) {r : Nat} (hr : r < 8) :
    logicalReg t (rotatingRound t k w p) r =
      if r = 7 then (logicalWork t p).t1 k w + (logicalWork t p).t2
      else if r = 3 then (logicalWork t p).d + (logicalWork t p).t1 k w
      else logicalReg t p r := by
  split
  · next h7 =>
    subst h7
    simp [logicalReg, logicalWork, rotatingRound, slotOf_inj, Work.t1, Work.t2, BitVec.add_assoc]
  split
  · next h3 =>
    subst h3
    simp [logicalReg, logicalWork, rotatingRound, slotOf_inj, Work.t1]
  · next h7 h3 =>
    simp [logicalReg, rotatingRound, slotOf_inj, hr, Ne.symm h7, Ne.symm h3]

/-- Reading the registers out of their slots turns a rotating round into the simultaneous assignment of R131. -/
theorem logicalWork_rotatingRound (k w : Word) (p : Vector Word 8) :
    logicalWork (t + 1) (rotatingRound t k w p) = (logicalWork t p).mix k w := by
  have hzero : ∀ q, logicalReg (t + 1) q 0 = logicalReg t q 7 := fun q => by
    simp only [logicalReg, slotOf_succ_zero]
  have hsucc : ∀ q r, logicalReg (t + 1) q (r + 1) = logicalReg t q r := fun q r => by
    simp only [logicalReg, slotOf_succ_succ]
  simp [logicalWork, Work.mix, hzero, hsucc, logicalReg_rotatingRound]

end Rotating

/-- After any number of rounds the slots hold the registers of the shifting form. -/
theorem logicalWork_rotatingRounds (h : Vector Word 8) (w : Nat → Word) (t : Nat) :
    logicalWork t (rotatingRounds h w t) = refRounds h w t := by
  induction t with
  | zero =>
    rw [rotatingRounds_zero, refRounds_zero]
    rfl
  | succ t ih => rw [rotatingRounds_succ, refRounds_succ, logicalWork_rotatingRound, ih]

/-- After 64 rounds register r is in slot r again, so FEEDFWD adds the same words. -/
theorem rotatingCompress_eq (h : Vector Word 8) (w : Nat → Word) :
    rotatingCompress h w = feedForward h (refRounds h w 64) := by
  rw [← logicalWork_rotatingRounds]
  rfl

/-- n rounds read the first n schedule words only. -/
theorem refRounds_congr {w w' : Nat → Word} (h : Vector Word 8) {n : Nat} (hw : ∀ t, t < n → w t = w' t) :
    refRounds h w n = refRounds h w' n := by
  induction n with
  | zero => rw [refRounds_zero, refRounds_zero]
  | succ n ih => rw [refRounds_succ, refRounds_succ, hw n (Nat.lt_succ_self n), ih fun t ht => hw t (by omega)]

/-- The rotating form on the words that the engine schedules leaves the H of COMPRESS. -/
theorem rotatingCompress_schedWord (e : Engine) : rotatingCompress e.h e.schedWord = e.compress.h := by
  have hwords : refRounds e.h e.schedWord 64 = refRounds e.h (directWord (blockWord e.buf.read)) 64 :=
    refRounds_congr e.h fun _ ht => e.schedWord_eq_directWord ht
  rw [rotatingCompress_eq, hwords, e.compress_h_eq_compressBlock, compressBlock_eq]

/-- Settles O24: `logicalWork_rotatingRounds` register by register, and the HashState through `feedForward`. -/
theorem rotatingRegisterFormIsEquivalent : Obligations.RotatingRegisterFormIsEquivalent := by
  refine ⟨fun h w t _ => ?_, fun h b => ?_, rotatingCompress_schedWord⟩
  · intro p x r hr
    have hx : x = logicalWork t p := (logicalWork_rotatingRounds h w t).symm
    rw [hx]
    interval_cases r <;> rfl
  · rw [rotatingCompress_eq, compressBlock_eq]

end Sys2Proof.Machine

/-! # Proofs: the Hash Context (spec/43_hash_context.md)

FINAL's padding is one list of bytes that are pushed in order (R156). Pushing the bytes that are missing from a block
runs COMPRESS on it once, which gives FINAL block by block (R155, R157); pushing any bytes extends the chained byte
sequence, which gives `Hash` (R158). -/

namespace Sys2Proof.Machine

/-! ## NOP and INIT (R151, R152) -/

/-- Without a presented command nothing is accepted (R32). -/
theorem State.not_accepts_of_cmdValid {s : State} (hvalid : s.nowPins.cmdValid = false) : s.accepts = false := by
  simp [State.accepts, hvalid]

/-- Settles O25: op 00 is NOP, and an idle edge only waits. -/
theorem nopChangesNothing : Obligations.NopChangesNothing :=
  ⟨fun _ => rfl, fun _ hop => decode_of_op_zero hop,
    fun _ hrst hvalid _ => ⟨_, step_of_not_accepts hrst (State.not_accepts_of_cmdValid hvalid), rfl⟩⟩

/-- Settles O26: the writes of INIT are those of the context reset, with which FINAL ends and which reset repeats. -/
theorem initMakesContextFresh : Obligations.InitMakesContextFresh :=
  ⟨fun _ => rfl, fun _ hop => decode_of_op_one hop, fun s => ⟨_, rfl, s.engine.finalDigest_isFresh⟩,
    Engine.resetAt_isFresh⟩

/-! ## PUSH and UPDATE (R153, R154) -/

section Push
variable (b : Byte) (e : Engine)

theorem Engine.pushAddress_of_fill_eq {e : Engine} (hlast : e.fill = 63) : e.pushAddress = 63 := by
  rw [pushAddress, hlast]
  rfl

/-- PUSH below index 63 as a whole state. -/
theorem Engine.push_eq_of_ne (hbelow : e.fill ≠ 63) :
    e.push b = { e with buf := e.buf.write e.fill.toNat b, fill := e.fill + 1 } :=
  e.push_below b hbelow

/-- PUSH at index 63: COMPRESS runs on the buffer with its last byte written. -/
theorem Engine.push_eq_of_eq (hlast : e.fill = 63) :
    e.push b = { ({ e with buf := e.buf.write 63 b } : Engine).compress with fill := 0 } := by
  rw [e.push_last b hlast, pushAddress_of_fill_eq hlast]
  rfl

/-- The HashState after PUSH at index 63. -/
theorem Engine.push_h_of_eq (hlast : e.fill = 63) : (e.push b).h = compressBlock e.h (e.push b).buf.read := by
  rw [push_buf, e.push_last b hlast, setFill_h, compress_h_eq_compressBlock, store_h, store_buf]

/-- UPDATE below index 63 as a whole state. -/
theorem Engine.updateByte_eq_of_ne (hbelow : e.fill ≠ 63) :
    e.updateByte b =
      { e with cnt := e.cnt + 1, buf := e.buf.write e.fill.toNat b, fill := e.fill + 1, ctx := .accum } := by
  rw [updateByte, push_eq_of_ne b (e.setCnt (e.cnt + 1)) hbelow]
  rfl

/-- UPDATE at index 63 as a whole state: one COMPRESS. -/
theorem Engine.updateByte_eq_of_eq (hlast : e.fill = 63) :
    e.updateByte b = { e with
      cnt := e.cnt + 1, buf := e.buf.write 63 b, fill := 0, ctx := .accum
      h := compressBlock e.h (e.buf.write 63 b).read
      work := refRounds e.h (directWord (blockWord (e.buf.write 63 b).read)) 64
      w := Vector.ofFn fun i : Fin 16 => directWord (blockWord (e.buf.write 63 b).read) (48 + i.val) } := by
  rw [updateByte, push_eq_of_eq b (e.setCnt (e.cnt + 1)) hlast, compress_eq_compressBlock]
  rfl

end Push

/-- Settles O27: the whole state after PUSH in its two cases, and the HashState that COMPRESS leaves. -/
theorem pushAppendsOneByte : Obligations.PushAppendsOneByte := by
  refine fun b e => ⟨e.push_eq_of_ne b, fun hlast => ⟨e.push_eq_of_eq b hlast, ?_⟩, e.push_cnt b⟩
  rw [e.push_h_of_eq b hlast, Engine.push_buf, Engine.pushAddress_of_fill_eq hlast]

/-- Settles O28: the whole next state in the two cases of PUSH, and op 10. -/
theorem updateTakesOneByte : Obligations.UpdateTakesOneByte := by
  intro d s
  refine ⟨fun hbelow => ?_, fun hlast => ?_, fun _ hop => decode_of_op_two hop⟩
  · rw [← s.engine.updateByte_eq_of_ne d hbelow]
    rfl
  · rw [← s.engine.updateByte_eq_of_eq d hlast]
    rfl

/-! ## The padding as a list of bytes (R156) -/

theorem Engine.pushAll_append (bs cs : List Byte) (e : Engine) :
    Engine.pushAll (bs ++ cs) e = Engine.pushAll cs (Engine.pushAll bs e) := by
  induction bs generalizing e with
  | nil => rfl
  | cons b rest ih => exact ih (e.push b)

/-- The zero loop pushes the zero bytes that are missing up to index 56. -/
theorem Engine.padZeros_eq_pushAll (n : Nat) (e : Engine) (hn : (56 - e.fill).toNat ≤ n) :
    Engine.padZeros n e = Engine.pushAll (List.replicate (56 - e.fill).toNat 0x00) e := by
  induction n generalizing e with
  | zero =>
    rw [Nat.le_zero.1 hn]
    rfl
  | succ n ih =>
    rw [padZeros]
    split
    · next hend =>
      rw [hend]
      rfl
    · next hne =>
      have hcount : (56 - e.fill).toNat = (56 - (e.push 0x00).fill).toNat + 1 := by
        rw [push_fill]
        bv_omega
      rw [hcount, List.replicate_succ, pushAll]
      exact ih (e.push 0x00) (by omega)

section ZeroCount
variable {n : Nat}

theorem zeroCount_mod (n : Nat) : zeroCount (n % 64) = zeroCount n := by
  rw [zeroCount, zeroCount, Nat.mod_mod]

theorem zeroCount_of_le (hn : n ≤ 55) : zeroCount n = 55 - n := by
  unfold zeroCount
  omega

theorem zeroCount_of_ge (hn : 56 ≤ n) (hlt : n < 64) : zeroCount n = 119 - n := by
  unfold zeroCount
  omega

theorem zeroCount_lt (n : Nat) : zeroCount n < 64 :=
  Nat.mod_lt _ (by decide)

/-- 0x80, the zero bytes and the length fill whole blocks. -/
theorem zeroCount_fills (n : Nat) : (n + (1 + zeroCount n + 8)) % 64 = 0 := by
  unfold zeroCount
  omega

/-- Fewer zero bytes leave the last block incomplete: two counts below 64 that fill it are equal modulo 64. -/
theorem zeroCount_least {y : Nat} (hy : y < zeroCount n) : (n + (1 + y + 8)) % 64 ≠ 0 := by
  have hfills := zeroCount_fills n
  have hlt := zeroCount_lt n
  omega

/-- The zero bytes that are missing behind 0x80. -/
theorem toNat_missing_zeros (f : FillIndex) : (56 - (f + 1)).toNat = zeroCount f.toNat := by
  unfold zeroCount
  bv_omega

end ZeroCount

/-- The last z + 8 bytes of the padding: zero bytes and the length field. -/
def zerosAndLength (z : Nat) (len : BitLength) : List Byte :=
  List.replicate z 0x00 ++ lengthBytes len

/-- What FINAL pushes after n bytes of message with the length field len: 0x80, the zero bytes, the length bytes. -/
def padding (n : Nat) (len : BitLength) : List Byte :=
  0x80 :: zerosAndLength (zeroCount n) len

theorem paddedMessage_eq (m : List Byte) :
    paddedMessage m = m ++ padding m.length (BitVec.ofNat 64 (8 * m.length)) := rfl

/-- The padding step of FINAL pushes the bytes of `padding`. -/
theorem Engine.pad_eq_pushAll (e : Engine) :
    e.pad = Engine.pushAll (padding e.fill.toNat (messageLength e.cnt)) e := by
  have hcount : (56 - (e.push 0x80).fill).toNat = zeroCount e.fill.toNat := by
    rw [push_fill, toNat_missing_zeros]
  have hbound : (56 - (e.push 0x80).fill).toNat ≤ 63 := by bv_omega
  rw [pad, padZeros_eq_pushAll _ _ hbound, hcount, ← pushAll_append]
  rfl

/-- Settles O30: the padding as one list, the end of the zero loop, and the arithmetic of `zeroCount`. -/
theorem finalPaddingCounts : Obligations.FinalPaddingCounts := by
  intro e
  refine ⟨?_, Engine.padZeros_fill 63 _ (by bv_omega), Nat.le_of_lt_succ (zeroCount_lt _), zeroCount_of_le,
    fun hge => zeroCount_of_ge hge e.fill.isLt, zeroCount_fills _, fun _ => zeroCount_least⟩
  rw [← messageLength_eq]
  exact e.pad_eq_pushAll

/-- Settles O35: `pad` forms the length bytes from CNT * 8; the bytes of the two lengths are computed. -/
theorem lengthIsNeverHardcoded : Obligations.LengthIsNeverHardcoded :=
  ⟨fun _ => rfl, by decide, by decide⟩

/-! ## FINAL, block by block (R155, R157) -/

/-- PUSHes that just fill the buffer run COMPRESS once, on its final contents, and leave FILL at 0. -/
theorem Engine.pushAll_fills (bs : List Byte) (e : Engine) (hfull : e.fill.toNat + bs.length = 64) :
    (Engine.pushAll bs e).h = compressBlock e.h (Engine.pushAll bs e).buf.read ∧ (Engine.pushAll bs e).fill = 0 := by
  induction bs generalizing e with
  | nil =>
    rw [List.length_nil] at hfull
    bv_omega
  | cons b rest ih =>
    rw [List.length_cons] at hfull
    by_cases hlast : e.fill = 63
    · have hat : e.fill.toNat = 63 := pushAddress_of_fill_eq hlast
      have hrest : rest = [] := List.length_eq_zero_iff.1 (by omega)
      rw [hrest]
      exact ⟨e.push_h_of_eq b hlast, by rw [pushAll, pushAll, push_fill, hlast]; rfl⟩
    · have hsame : (e.push b).h = e.h := by rw [e.push_below b hlast, setFill_h, store_h]
      have hnext : (e.push b).fill.toNat = e.fill.toNat + 1 := by
        rw [push_fill]
        bv_omega
      rw [pushAll, ← hsame]
      exact ih (e.push b) (by omega)

/-- PUSHes that just fill BUF, given the bytes of the block: what H takes and what BUF holds. -/
theorem Engine.pushAll_block {e : Engine} {bs : List Byte} {byte : Nat → Byte} (hwf : e.buf.wf = true)
    (hfull : e.fill.toNat + bs.length = 64) (hold : ∀ k, k < e.fill.toNat → e.buf.read k = byte k)
    (hnew : ∀ (i : Nat) (hi : i < bs.length), bs[i] = byte (e.fill.toNat + i)) :
    (Engine.pushAll bs e).h = compressBlock e.h byte ∧
      ∀ k, k < 64 → (Engine.pushAll bs e).buf.read k = byte k := by
  have hread : ∀ k, k < 64 → (Engine.pushAll bs e).buf.read k = byte k := by
    intro k hk
    rw [read_pushAll bs e hwf hfull.le]
    split
    · next hlt => exact hold k hlt
    · next hge =>
      have hplace : e.fill.toNat + (k - e.fill.toNat) = k := by omega
      rw [List.getD_eq_getElem _ _ (by omega), hnew, hplace]
  exact ⟨(e.pushAll_fills bs hfull).1.trans (compressBlock_congr hread e.h), hread⟩

@[simp] theorem length_zerosAndLength (z : Nat) (len : BitLength) : (zerosAndLength z len).length = z + 8 := by
  rw [zerosAndLength, List.length_append, List.length_replicate]
  rfl

/-- Byte k of the last block, k from 56 on, is byte k - 56 of the length field. -/
theorem lengthByte_sub (len : BitLength) {k : Nat} (hge : 56 ≤ k) (hlt : k < 64) :
    lengthByte len (k - 56) = len.extractLsb' (8 * (63 - k)) 8 := by
  have hplace : 56 - 8 * (k - 56) = 8 * (63 - k) := by omega
  rw [lengthByte, hplace]

/-- The zero bytes and the length field by their index k in the last block, which z of the zero bytes leave at 56. -/
theorem getElem_zerosAndLength (len : BitLength) {z i k : Nat} (hi : i < (zerosAndLength z len).length)
    (hk : 56 + i = z + k) :
    (zerosAndLength z len)[i] = if k < 56 then 0x00 else len.extractLsb' (8 * (63 - k)) 8 := by
  rw [length_zerosAndLength] at hi
  rw [← List.getD_eq_getElem _ 0, zerosAndLength]
  split
  · have hzero : i < (List.replicate z (0x00 : Byte)).length := by
      rw [List.length_replicate]
      omega
    rw [List.getD_append _ _ _ _ hzero, List.getD_replicate _ (by omega)]
  · have hplace : i - z = k - 56 := by omega
    rw [List.getD_append_right _ _ _ _ (by rw [List.length_replicate]; omega), List.length_replicate, hplace,
      lengthBytes_getD len (by omega), lengthByte_sub len (by omega) (by omega)]

/-- The one block of FINAL when FILL is at most 55: the buffered bytes, 0x80, zero bytes and the length. -/
def Engine.onlyBlock (e : Engine) (k : Nat) : Byte :=
  if k < e.fill.toNat then e.buf.read k else if k = e.fill.toNat then 0x80
  else if k < 56 then 0x00 else (BitVec.ofNat 64 (8 * e.cnt.toNat)).extractLsb' (8 * (63 - k)) 8

/-- The first block of FINAL when FILL is 56 or more: it has no place for the length. -/
def Engine.firstBlock (e : Engine) (k : Nat) : Byte :=
  if k < e.fill.toNat then e.buf.read k else if k = e.fill.toNat then 0x80 else 0x00

/-- The second block of FINAL when FILL is 56 or more: zero bytes and the length. -/
def Engine.lastBlock (e : Engine) (k : Nat) : Byte :=
  if k < 56 then 0x00 else (BitVec.ofNat 64 (8 * e.cnt.toNat)).extractLsb' (8 * (63 - k)) 8

section Final
variable (e : Engine)

/-- FINAL with FILL at most 55 compresses one block. -/
theorem Engine.pad_of_fill_le (hwf : e.buf.wf = true) (hf : e.fill.toNat ≤ 55) :
    e.pad.h = compressBlock e.h e.onlyBlock ∧ ∀ k, k < 64 → e.pad.buf.read k = e.onlyBlock k := by
  have hz : zeroCount e.fill.toNat = 55 - e.fill.toNat := zeroCount_of_le hf
  rw [pad_eq_pushAll]
  refine pushAll_block hwf ?full (fun k hk => (if_pos hk).symm) fun i hi => ?new
  case full =>
    rw [padding, List.length_cons, length_zerosAndLength]
    omega
  case new =>
    cases i with
    | zero => simp [padding, onlyBlock]
    | succ i =>
      rw [onlyBlock, if_neg (by omega), if_neg (by omega), ← messageLength_eq]
      exact getElem_zerosAndLength _ _ (by omega)

/-- The PUSHes of FINAL that complete the first of two blocks: 0x80 and zero bytes. -/
def firstPadding (f : Nat) : List Byte :=
  0x80 :: List.replicate (63 - f) 0x00

/-- With FILL at 56 or more the padding completes the block at hand and then fills a whole one. -/
theorem padding_of_ge {f : Nat} (hge : 56 ≤ f) (hlt : f < 64) (len : BitLength) :
    padding f len = firstPadding f ++ zerosAndLength 56 len := by
  have hzeros : zeroCount f = 63 - f + 56 := by
    rw [zeroCount_of_ge hge hlt]
    omega
  rw [padding, zerosAndLength, hzeros, List.replicate_add, List.append_assoc]
  rfl

/-- The first of two blocks that FINAL compresses. -/
theorem Engine.pushAll_firstPadding (hwf : e.buf.wf = true) :
    (Engine.pushAll (firstPadding e.fill.toNat) e).h = compressBlock e.h e.firstBlock ∧
      (Engine.pushAll (firstPadding e.fill.toNat) e).fill = 0 := by
  have hfull : e.fill.toNat + (firstPadding e.fill.toNat).length = 64 := by
    rw [firstPadding, List.length_cons, List.length_replicate]
    omega
  have hnew : ∀ (i : Nat) (hi : i < (firstPadding e.fill.toNat).length),
      (firstPadding e.fill.toNat)[i] = e.firstBlock (e.fill.toNat + i) := by
    intro i hi
    cases i <;> simp [firstPadding, firstBlock]
  have hold : ∀ k, k < e.fill.toNat → e.buf.read k = e.firstBlock k := fun k hk => (if_pos hk).symm
  exact ⟨(pushAll_block hwf hfull hold hnew).1, (pushAll_fills _ e hfull).2⟩

/-- FINAL with FILL at 56 or more compresses two blocks. -/
theorem Engine.pad_of_fill_ge (hwf : e.buf.wf = true) (hf : 56 ≤ e.fill.toNat) :
    e.pad.h = compressBlock (compressBlock e.h e.firstBlock) e.lastBlock ∧
      ∀ k, k < 64 → e.pad.buf.read k = e.lastBlock k := by
  obtain ⟨hh, hempty⟩ := e.pushAll_firstPadding hwf
  obtain ⟨-, -, -, -, hkeeps⟩ := pushAll_frame (firstPadding e.fill.toNat) e
  rw [pad_eq_pushAll, padding_of_ge hf e.fill.isLt, pushAll_append, ← hh]
  refine pushAll_block (hkeeps hwf) ?full (fun k hk => ?old) fun i hi => ?new
  case full =>
    rw [hempty, length_zerosAndLength]
    rfl
  case old =>
    rw [hempty] at hk
    exact absurd hk (Nat.not_lt_zero k)
  case new =>
    rw [hempty, lastBlock, ← messageLength_eq]
    exact getElem_zerosAndLength _ hi (congrArg (56 + ·) (Nat.zero_add i).symm)

end Final

/-- Settles O31: one block or two, as `pad_of_fill_le` and `pad_of_fill_ge` have it. -/
theorem finalPadsAndEmitsDigest : Obligations.FinalPadsAndEmitsDigest := by
  intro s hwf e
  have hdigest : ∀ h, e.pad.h = h → (s.withEngine e.finalDigest).engine.digest = serializeDigest h :=
    fun h hh => e.finalDigest_digest.trans (congrArg serializeDigest hh)
  have hbuf : (s.withEngine e.finalDigest).engine.buf = e.pad.buf := e.finalDigest_buf
  refine ⟨s.withEngine e.finalDigest, rfl, rfl, e.finalDigest_isFresh, e.finalDigest_dv, fun hf => ?one,
    fun hf => ?two⟩
  case one =>
    obtain ⟨hh, hread⟩ := e.pad_of_fill_le hwf hf
    rw [hbuf]
    exact ⟨hdigest _ hh, hread⟩
  case two =>
    obtain ⟨hh, hread⟩ := e.pad_of_fill_ge hwf hf
    rw [hbuf]
    exact ⟨hdigest _ hh, hread⟩

/-! ## FINAL computes `Hash` (R158) -/

section Message
variable {m p : List Byte}

theorem Engine.Pushed.pushAll {e : Engine} (hp : e.Pushed p) (hwf : e.buf.wf = true) (bs : List Byte) :
    (Engine.pushAll bs e).Pushed (p ++ bs) := by
  induction bs generalizing p e with
  | nil => rwa [List.append_nil]
  | cons b rest ih =>
    rw [Engine.pushAll, List.append_cons]
    exact ih (hp.push hwf b) (e.push_wf b hwf)

/-- What FINAL pushes after the message m completes `paddedMessage m`. -/
theorem Engine.Absorbed.append_padding {e : Engine} (ha : e.Absorbed m) :
    m ++ padding e.fill.toNat (messageLength e.cnt) = paddedMessage m := by
  have hlength : messageLength e.cnt = BitVec.ofNat 64 (8 * m.length) := by
    rw [messageLength, ha.cnt_eq, Nat.mul_comm 8]
    apply BitVec.eq_of_toNat_eq
    simp
  rw [paddedMessage_eq, ha.fill_eq, hlength, padding, zeroCount_mod, padding]

/-- FINAL on an engine that has taken the bytes m emits `Hash(m)`. -/
theorem Engine.Absorbed.finalDigest_digest {e : Engine} (ha : e.Absorbed m) (hwf : e.buf.wf = true) :
    e.finalDigest.digest = hashMessage m := by
  have hpad : e.pad.Pushed (paddedMessage m) := by
    rw [e.pad_eq_pushAll, ← ha.append_padding]
    exact ha.pushed.pushAll hwf _
  rw [Engine.finalDigest_digest, hpad.h_eq, hashMessage]

/-- The UPDATE commands of m and FINAL, behind the message p. -/
theorem runCommands_updates_final {s : State} (hwf : s.engine.buf.wf = true) (ha : s.engine.Absorbed p)
    (m : List Byte) :
    ∃ t, runCommands (m.map Instr.update ++ [.final]) s = .next t ∧ t.engine.digest = hashMessage (p ++ m) ∧
      t.engine.dv = true ∧ t.engine.IsFresh := by
  induction m generalizing s p with
  | nil =>
    rw [List.append_nil]
    exact ⟨_, rfl, ha.finalDigest_digest hwf, s.engine.finalDigest_dv, s.engine.finalDigest_isFresh⟩
  | cons d m ih =>
    obtain ⟨t, hrun, hdone⟩ := ih (s := s.withEngine (s.engine.updateByte d)) (s.engine.updateByte_wf d hwf)
      (ha.updateByte hwf d)
    rw [List.append_cons p]
    exact ⟨t, hrun, hdone⟩

/-- A Fresh context needs no INIT. -/
theorem runCommands_updates_final_of_isFresh {s : State} (hwf : s.engine.buf.wf = true) (hf : s.engine.IsFresh)
    (m : List Byte) :
    ∃ t, runCommands (m.map Instr.update ++ [.final]) s = .next t ∧ t.engine.digest = hashMessage m ∧
      t.engine.dv = true ∧ t.engine.IsFresh :=
  runCommands_updates_final hwf hf.absorbed_nil m

end Message

/-- Settles O42: NOP commands fall away, and INIT leaves a Fresh context. -/
theorem digestIsHashOfMessage : Obligations.DigestIsHashOfMessage := by
  intro m s l hwf hl
  rw [← runCommands_filter_ne_nop]
  obtain hinit | ⟨hfresh, hnone⟩ := hl
  · rw [hinit]
    exact runCommands_updates_final_of_isFresh (s := s.withEngine s.engine.initContext) hwf
      s.engine.initContext_isFresh m
  · rw [hnone]
    exact runCommands_updates_final_of_isFresh hwf hfresh m

/-- Settles O44: FINAL, INIT and reset leave Fresh contexts, and from one a message needs no INIT. -/
theorem contextReusableAfterFinal : Obligations.ContextReusableAfterFinal := by
  refine ⟨fun s => ⟨_, _, rfl, rfl, ?context⟩, Engine.resetAt_isFresh, fun s m hwf => ?second⟩
  case context =>
    exact ⟨s.engine.finalDigest_h, s.engine.finalDigest_cnt, s.engine.finalDigest_fill, s.engine.finalDigest_ctx⟩
  case second =>
    obtain ⟨t, hrun, hdigest, hdv, -⟩ := runCommands_updates_final_of_isFresh
      (s := s.withEngine s.engine.finalDigest) (s.engine.finalDigest_wf hwf) s.engine.finalDigest_isFresh m
    exact ⟨t, hrun, hdigest, hdv⟩

/-! ## The empty message (R163) -/

/-- `Hash` of the empty message (95_test_vectors.md 5). -/
theorem digestPort_hashMessage_nil :
    digestPort (hashMessage []) = 0xe3b0c44298fc1c149afbf4c8996fb92427ae41e4649b934ca495991b7852b855 := by
  decide +kernel

/-- The one block of a Fresh context: 0x80 and 63 zero bytes. -/
theorem Engine.IsFresh.onlyBlock_eq {e : Engine} (hf : e.IsFresh) (k : Nat) :
    e.onlyBlock k = if k = 0 then 0x80 else 0x00 := by
  obtain ⟨-, hcnt, hfill, -⟩ := hf
  simp [onlyBlock, hcnt, hfill]

/-- Settles O33: a Fresh context holds the empty message, and its padding is one block. -/
theorem emptyMessageDigest : Obligations.EmptyMessageDigest := by
  intro s hwf hf
  have hempty : s.engine.fill.toNat ≤ 55 := by
    obtain ⟨-, -, hfill, -⟩ := hf
    rw [hfill]
    decide
  have hbuf : ∀ k, k < 64 → s.engine.finalDigest.buf.read k = if k = 0 then 0x80 else 0x00 := fun k hk => by
    rw [Engine.finalDigest_buf, (s.engine.pad_of_fill_le hwf hempty).2 k hk, hf.onlyBlock_eq]
  refine ⟨_, rfl, s.engine.finalDigest_dv, ?_, hbuf 0 (by decide), fun k hpos hk => ?_⟩
  · rw [State.withEngine_engine, hf.absorbed_nil.finalDigest_digest hwf, digestPort_hashMessage_nil]
  · rw [State.withEngine_engine, hbuf k hk, if_neg (by omega)]

end Sys2Proof.Machine

/-! # Proofs: no exceptions (spec/60_exceptions.md)

A command only changes the engine, so at an accepting edge it has a next state to be busy in; the two other kinds of
edge, reset and waiting, run no command. -/

namespace Sys2Proof.Machine

/-- rst wins over whatever is presented (R183). -/
theorem step_of_rst {s : State} (hrst : s.nowPins.rst = true) : step s = .next s.resetEdge.nextEdge :=
  if_pos hrst

/-- An accepting edge applies the whole effect of the command at once, and the engine is busy from then on (R32). -/
theorem step_of_accepts {s : State} (hrst : s.nowPins.rst = false) (hacc : s.accepts = true) :
    ∃ e, step s = .next ((s.nextEdge.withEngine e).withBusy (latencyOf (decode s.nowPins.cmd) s.edge)) := by
  obtain ⟨e, he⟩ := exec_engine (decode s.nowPins.cmd) s.nextEdge
  exact ⟨e, by simp [step, hrst, hacc, he, occupyFor]⟩

/-- No edge faults or refuses. -/
theorem step_completes (s : State) : ∃ t, step s = .next t := by
  cases hrst : s.nowPins.rst with
  | true => exact ⟨_, step_of_rst hrst⟩
  | false =>
    cases hacc : s.accepts with
    | true =>
      obtain ⟨e, he⟩ := step_of_accepts hrst hacc
      exact ⟨_, he⟩
    | false => exact ⟨_, step_of_not_accepts hrst hacc⟩

/-- Settles O52: a command is a change of the engine, each of the three kinds of edge has a next state, and `Fault` has
no constructor. -/
theorem everyCommandCompletes : Obligations.EveryCommandCompletes := by
  refine ⟨fun i s => ?command, step_completes, fun r => nomatch r⟩
  case command =>
    obtain ⟨e, he⟩ := exec_engine i s
    exact ⟨s.withEngine e, he, rfl⟩

end Sys2Proof.Machine

/-! # Proofs: the encoding, through the decoder and through text (spec/30_encoding.md)

A word joins its two fields, so the fields of a canonical word are its command's op and data, and the decoder reads them
back (R80 to R83). A text line is read through its words, to which a comment and the blank before it add none (R87). -/

namespace Sys2Proof

/-! ## Decoding the canonical words (R80 to R83) -/

section Canonical
variable (i : Instr)

theorem cmdOp_append (op : BitVec 2) (d : Byte) : cmdOp (op ++ d) = op :=
  BitVec.extractLsb'_append_eq_left

theorem cmdData_append (op : BitVec 2) (d : Byte) : cmdData (op ++ d) = d :=
  BitVec.extractLsb'_append_eq_right

theorem cmdOp_encode : cmdOp (encode i) = i.op := by
  rw [encode, cmdOp_append]

theorem cmdData_encode : cmdData (encode i) = i.canonicalData := by
  rw [encode, cmdData_append]

theorem decode_encode : decode (encode i) = i := by
  have hop := cmdOp_encode i
  cases i with
  | nop => exact decode_of_op_zero hop
  | init => exact decode_of_op_one hop
  | update d => rw [decode_of_op_two hop, cmdData_encode, Instr.canonicalData]
  | final => exact decode_of_op_three hop

/-- The canonical word of what a word decodes to: the same op, and the data where the command has any. -/
theorem encode_decode (c : Cmd) : encode (decode c) = cmdOp c ++ (if cmdOp c = 2 then cmdData c else 0) := by
  obtain hop | hop | hop | hop := cmdOp_cases c
  · rw [decode_of_op_zero hop, hop]; rfl
  · rw [decode_of_op_one hop, hop]; rfl
  · rw [decode_of_op_two hop, hop]; rfl
  · rw [decode_of_op_three hop, hop]; rfl

end Canonical

/-- A number on the port spells the command that its word decodes to. -/
theorem decodeNumber_toNat (c : Cmd) : decodeNumber c.toNat = .ok (decode c) := by
  have hfits : cmdNumberFits c.toNat = true := decide_eq_true c.isLt
  rw [decodeNumber, if_pos hfits, BitVec.ofNat_toNat, BitVec.setWidth_eq]

/-- A table of 10 bits or more gives a word of the port whole. -/
theorem decodeTableWord_toNat (c : Cmd) {nbits : Nat} (hbits : 10 ≤ nbits) :
    decodeTableWord nbits c.toNat = some (decode c) := by
  have hsmall : c.toNat < 2 ^ nbits := c.isLt.trans_le (Nat.pow_le_pow_right (by decide) hbits)
  rw [decodeTableWord, tableNumber, Nat.mod_eq_of_lt hsmall, decodeNumber_toNat]

/-- Settles O9: the fields of a canonical word are the command's, on the port and through the table. -/
theorem decodeInvertsEncode : Obligations.DecodeInvertsEncode :=
  ⟨fun i _ => decode_encode i, fun i _ hbits => by rw [decodeTableWord_toNat _ hbits, decode_encode], encode_decode⟩

/-- Settles O11: the op bits of each word select its command, and the data bits are UPDATE's byte. -/
theorem decodesWrittenOutWords : Obligations.DecodesWrittenOutWords := by
  have hupdate : ∀ d : Byte, decode (0b10#2 ++ d) = .update d := fun d => decode_encode (.update d)
  exact ⟨decode_of_op_zero (cmdOp_append ..), decode_of_op_zero (cmdOp_append ..), decode_of_op_one (cmdOp_append ..),
    decode_of_op_one (cmdOp_append ..), hupdate _, hupdate _, hupdate _, hupdate _,
    decode_of_op_three (cmdOp_append ..), decode_of_op_three (cmdOp_append ..)⟩

end Sys2Proof

namespace Sys2Proof.Machine

/-! ## Text lines (R87) -/

section Line
variable {text line : List Char}

/-- What stands before the first semicolon is kept. -/
theorem stripComment_append (hline : ';' ∉ line) (rest : List Char) :
    stripComment (line ++ rest) = line ++ stripComment rest := by
  induction line with
  | nil => rfl
  | cons c line ih =>
    rw [List.mem_cons, not_or] at hline
    obtain ⟨hc, hline⟩ := hline
    rw [List.cons_append, stripComment, if_neg (Ne.symm hc), ih hline, List.cons_append]

theorem stripComment_of_not_mem (hline : ';' ∉ line) : stripComment line = line := by
  simpa [stripComment] using stripComment_append hline []

/-- A blank at the end of a line adds no word. -/
theorem wordsFrom_append_blank (word line : List Char) : wordsFrom word (line ++ [' ']) = wordsFrom word line := by
  induction line generalizing word with
  | nil => simp [wordsFrom]
  | cons c rest ih => simp only [List.cons_append, wordsFrom, ih]

/-- A line is read through its words alone. -/
theorem parseLine_congr (h : wordsFrom [] (stripComment text) = wordsFrom [] (stripComment line)) :
    parseLine text = parseLine line := by
  rw [parseLine, parseLine, h]

/-- A comment and the blank before it change no command. -/
theorem parseLine_append_comment (hline : ';' ∉ line) (comment : List Char) :
    parseLine (line ++ ' ' :: ';' :: comment) = parseLine line := by
  have hrest : stripComment (' ' :: ';' :: comment) = [' '] := rfl
  apply parseLine_congr
  rw [stripComment_append hline, hrest, wordsFrom_append_blank, stripComment_of_not_mem hline]

end Line

/-- A printed digit reads back as its value. -/
theorem hexDigit_hexChar {d : Nat} (hd : d < 16) : hexDigit (hexChar d) = some d := by
  revert d
  decide

/-- A printed digit neither ends a word nor begins a comment. -/
theorem hexChar_plain {d : Nat} (hd : d < 16) : hexChar d ≠ ' ' ∧ hexChar d ≠ '\t' ∧ hexChar d ≠ ';' := by
  revert d
  decide

theorem byte_high_lt (d : Byte) : d.toNat / 16 < 16 := by bv_omega

theorem byte_low_lt (d : Byte) : d.toNat % 16 < 16 := Nat.mod_lt _ (by decide)

theorem not_mem_printLine (i : Instr) : ';' ∉ printLine i := by
  cases i with
  | nop => decide
  | init => decide
  | update d =>
    obtain ⟨-, -, hhigh⟩ := hexChar_plain (byte_high_lt d)
    obtain ⟨-, -, hlow⟩ := hexChar_plain (byte_low_lt d)
    simp [printLine, hhigh.symm, hlow.symm]
  | final => decide

/-- The two words of an UPDATE's line. -/
theorem wordsFrom_printLine_update (d : Byte) :
    wordsFrom [] (printLine (.update d)) =
      [['U', 'P', 'D', 'A', 'T', 'E'], ['0', 'x', hexChar (d.toNat / 16), hexChar (d.toNat % 16)]] := by
  obtain ⟨hhigh, hhigh', -⟩ := hexChar_plain (byte_high_lt d)
  obtain ⟨hlow, hlow', -⟩ := hexChar_plain (byte_low_lt d)
  simp [printLine, wordsFrom, hhigh, hhigh', hlow, hlow']

/-- The operand of an UPDATE's line spells its byte. -/
theorem operandOf_hexChars (d : Byte) :
    operandOf ['0', 'x', hexChar (d.toNat / 16), hexChar (d.toNat % 16)] = some d.toNat := by
  simp only [operandOf, hexDigit_hexChar (byte_high_lt d), hexDigit_hexChar (byte_low_lt d), Nat.div_add_mod]

theorem command_update (d : Byte) : AsmLine.command ⟨.update, some d.toNat⟩ = .ok (.update d) := by
  have hwf : AsmLine.wellFormed ⟨.update, some d.toNat⟩ = true := decide_eq_true d.isLt
  simp only [AsmLine.command, if_pos hwf, BitVec.ofNat_toNat, BitVec.setWidth_eq]

theorem parseLine_printLine (i : Instr) : parseLine (printLine i) = .ok i := by
  cases i with
  | nop => rfl
  | init => rfl
  | update d =>
    have hname : mnemonicOf ['U', 'P', 'D', 'A', 'T', 'E'] = some .update := rfl
    rw [parseLine, stripComment_of_not_mem (not_mem_printLine _), wordsFrom_printLine_update]
    simp only [hname, operandOf_hexChars, command_update]
  | final => rfl

/-- Settles O12: the printed line has no semicolon, so a comment behind it falls away. -/
theorem textLineReadsBack : Obligations.TextLineReadsBack :=
  fun i comment => ⟨parseLine_printLine i,
    (parseLine_append_comment (not_mem_printLine i) comment).trans (parseLine_printLine i)⟩

end Sys2Proof.Machine

/-! # Proofs: the round constants and the direct schedule (spec/10_state.md, spec/41_message_schedule.md)

Both are read off a definition: the constants off a table of primes, the recurrence off the schedule's own equation. -/

namespace Sys2Proof.Machine

/-! ## The round constants (R25) -/

/-- The integer part of the cube root of a number below 343. -/
def cubeRootFloor (p : Nat) : Nat := Nat.findGreatest (fun q => q ^ 3 ≤ p) 6

theorem primesTo311_eq : primesTo311 =
    [2, 3, 5, 7, 11, 13, 17, 19, 23, 29, 31, 37, 41, 43, 47, 53, 59, 61, 67, 71, 73, 79, 83, 89, 97, 101, 103, 107, 109,
      113, 127, 131, 137, 139, 149, 151, 157, 163, 167, 173, 179, 181, 191, 193, 197, 199, 211, 223, 227, 229, 233, 239,
      241, 251, 257, 263, 269, 271, 277, 281, 283, 293, 307, 311] := by
  decide +kernel

/-- With its integer part in front, each round constant is the cube root of its prime, in units of 2^-32, rounded
down. -/
theorem roundConst_isCubeRoot :
    ∀ t, t < 64 →
      (cubeRootFloor (primesTo311.getD t 0) * 2 ^ 32 + (roundConst t).toNat) ^ 3 ≤ primesTo311.getD t 0 * 2 ^ 96 ∧
        primesTo311.getD t 0 * 2 ^ 96 <
          (cubeRootFloor (primesTo311.getD t 0) * 2 ^ 32 + (roundConst t).toNat + 1) ^ 3 := by
  rw [primesTo311_eq]
  decide +kernel

/-- Settles O2: `cubeRootFloor` gives the integer part of each root. -/
theorem roundConstantsAreRootsOfPrimes : Obligations.RoundConstantsAreRootsOfPrimes := by
  have hprimes : primesTo311.length = 64 := by rw [primesTo311_eq]; rfl
  exact ⟨hprimes, rfl, fun t ht =>
    ⟨_, Nat.lt_succ_of_le (Nat.findGreatest_le 6), roundConst_isCubeRoot t ht⟩⟩

/-! ## The direct schedule (R123) -/

/-- Settles O20: `directWord_add_sixteen` with the index counted from the oldest word. -/
theorem directScheduleRecurrence : Obligations.DirectScheduleRecurrence := by
  refine fun block => ⟨fun t ht => directWord_of_lt ht, fun t hge hlt => ?_⟩
  obtain ⟨n, rfl⟩ := Nat.exists_eq_add_of_le' hge
  exact directWord_add_sixteen (by omega)

end Sys2Proof.Machine

/-! # Proofs: what the commands keep and what they never read (spec/43_hash_context.md, spec/20_memory.md)

The padding is a list of PUSHes and COMPRESS a function of H and the 64 bytes of BUF, so what holds of one PUSH holds of
UPDATE and FINAL: their frames, that CTX feeds no data (R28), that stale state reaches no result (R67). -/

namespace Sys2Proof.Machine

/-! ## The meanings of the commands -/

section Exec
variable (s : State)

@[simp] theorem exec_nop : exec .nop s = .next s := rfl
@[simp] theorem exec_init : exec .init s = .next (s.withEngine s.engine.initContext) := rfl
@[simp] theorem exec_update (d : Byte) : exec (.update d) s = .next (s.withEngine (s.engine.updateByte d)) := rfl
@[simp] theorem exec_final : exec .final s = .next (s.withEngine s.engine.finalDigest) := rfl

end Exec

/-! ## The bytes of BUF (R50, R51) -/

/-- Settles O13: the write's two laws, for the 64 indices of BUF. -/
theorem bufferWriteReplacesOneByte : Obligations.BufferWriteReplacesOneByte :=
  fun _ i b hwf => ⟨Memory.wf_write b i.isLt hwf, Memory.read_write _ b hwf⟩

/-- From 64 on a canonical store lists nothing. -/
theorem Memory.read_of_wfFrom_of_ge {lo a : Nat} {m : Memory} (hwf : Memory.wfFrom lo m = true) (ha : 64 ≤ a) :
    m.read a = unlistedByte := by
  induction m generalizing lo with
  | nil => rfl
  | cons c rest ih =>
    obtain ⟨k, v⟩ := c
    obtain ⟨-, hk, -, hrest⟩ := (Memory.wfFrom_cons ..).1 hwf
    rw [Memory.read, if_neg (by omega), ih hrest]

theorem Memory.read_of_ge {a : Nat} {m : Memory} (hwf : m.wf = true) (ha : 64 ≤ a) : m.read a = unlistedByte :=
  Memory.read_of_wfFrom_of_ge hwf ha

/-! ## Frames (R154, R155) -/

section Frame
variable (e : Engine)

/-- UPDATE writes the byte at the address of PUSH and no other. -/
theorem Engine.updateByte_read (d : Byte) (hwf : e.buf.wf = true) (a : Nat) :
    (e.updateByte d).buf.read a = if a = e.pushAddress then d else e.buf.read a := by
  rw [updateByte_buf, Memory.read_write _ _ hwf]

/-- UPDATE below index 63 runs no COMPRESS. -/
theorem Engine.updateByte_scratch_of_ne (d : Byte) (hbelow : e.fill ≠ 63) :
    (e.updateByte d).h = e.h ∧ (e.updateByte d).w = e.w ∧ (e.updateByte d).work = e.work := by
  rw [e.updateByte_eq_of_ne d hbelow]
  exact ⟨rfl, rfl, rfl⟩

/-- The padding writes no address from 64 on. -/
theorem Engine.pad_read_of_ge (hwf : e.buf.wf = true) {a : Nat} (ha : 64 ≤ a) : e.pad.buf.read a = e.buf.read a := by
  obtain ⟨-, -, -, -, hkeeps⟩ := e.pad_frame
  rw [Memory.read_of_ge (hkeeps hwf) ha, Memory.read_of_ge hwf ha]

/-- When FILL is at most 55 the padding writes no address below it. -/
theorem Engine.pad_read_of_lt (hwf : e.buf.wf = true) (hf : e.fill.toNat ≤ 55) {a : Nat} (ha : a < e.fill.toNat) :
    e.pad.buf.read a = e.buf.read a := by
  rw [(e.pad_of_fill_le hwf hf).2 a (by omega), onlyBlock, if_pos ha]

end Frame

/-- Settles O29: UPDATE is a write at the address of PUSH, and below index 63 no COMPRESS. -/
theorem updateFrame : Obligations.UpdateFrame := by
  intro d s hwf
  have hread := s.engine.updateByte_read d hwf
  refine ⟨s.withEngine (s.engine.updateByte d), rfl, fun a ha => ?other, ?same, s.engine.updateByte_digest d,
    s.engine.updateByte_dv d, s.engine.updateByte_scratch_of_ne d, rfl⟩
  case other => exact (hread a).trans (if_neg ha)
  case same => exact (hread _).trans (if_pos rfl)

/-- Settles O32: what FINAL leaves in BUF is what the padding leaves there. -/
theorem finalFrame : Obligations.FinalFrame := by
  intro s hwf
  have hbuf : (s.withEngine s.engine.finalDigest).engine.buf = s.engine.pad.buf := s.engine.finalDigest_buf
  have habove : ∀ a, 64 ≤ a → s.engine.pad.buf.read a = s.engine.buf.read a :=
    fun _ => s.engine.pad_read_of_ge hwf
  refine ⟨s.withEngine s.engine.finalDigest, rfl, ?_, ?_, rfl, rfl, rfl⟩
  · rw [hbuf]
    rintro hf a (hbelow | hge)
    · exact s.engine.pad_read_of_lt hwf hf hbelow
    · exact habove a hge
  · rw [hbuf]
    exact habove

/-! ## The counters (R164) -/

theorem messageLength_ofNat (n : Nat) : messageLength (BitVec.ofNat 64 n) = BitVec.ofNat 64 (8 * n) := by
  apply BitVec.eq_of_toNat_eq
  simp [messageLength, Nat.mul_comm]

theorem add_ofNat_succ {w : Nat} (x : BitVec w) (n : Nat) :
    x + BitVec.ofNat w (n + 1) = x + 1 + BitVec.ofNat w n := by
  rw [Nat.add_comm, BitVec.ofNat_add, BitVec.add_assoc]
  rfl

/-- UPDATE commands count their bytes in CNT and FILL, each modulo its width. -/
theorem runCommands_updates_counts (m : List Byte) (s : State) :
    ∃ t, runCommands (updateCommands m) s = .next t ∧
      t.engine.cnt = s.engine.cnt + BitVec.ofNat 64 m.length ∧
      t.engine.fill = s.engine.fill + BitVec.ofNat 6 m.length := by
  induction m generalizing s with
  | nil => exact ⟨s, rfl, (BitVec.add_zero _).symm, (BitVec.add_zero _).symm⟩
  | cons d m ih =>
    obtain ⟨t, hrun, hcnt, hfill⟩ := ih (s.withEngine (s.engine.updateByte d))
    refine ⟨t, hrun, ?_, ?_⟩
    · rw [hcnt, State.withEngine_engine, Engine.updateByte_cnt, List.length_cons, add_ofNat_succ]
    · rw [hfill, State.withEngine_engine, Engine.updateByte_fill, List.length_cons, add_ofNat_succ]

/-- Settles O34: each UPDATE adds one to both counters, and the length field is a product modulo 2^64. -/
theorem counterWrapsSilently : Obligations.CounterWrapsSilently := by
  refine ⟨runCommands_updates_counts, fun d s hlast => ⟨_, rfl, ?_⟩, messageLength_ofNat, by decide⟩
  rw [State.withEngine_engine, Engine.updateByte_cnt, hlast]
  rfl

/-! ## CTX (R28, R150) -/

section Ctx
variable (e : Engine) (c : Ctx)

theorem Engine.setCtx_markAccum : (e.setCtx c).markAccum = e.markAccum := rfl

theorem Engine.setCtx_initContext : (e.setCtx c).initContext = e.initContext := rfl

theorem Engine.setCtx_emitDigest : (e.setCtx c).emitDigest = e.emitDigest.setCtx c := rfl

theorem Engine.setCtx_countUp : (e.setCtx c).setCnt ((e.setCtx c).cnt + 1) = (e.setCnt (e.cnt + 1)).setCtx c := rfl

theorem Engine.setCtx_compress : (e.setCtx c).compress = e.compress.setCtx c := by
  rw [compress_eq_compressBlock, compress_eq_compressBlock]
  rfl

theorem Engine.setCtx_push (b : Byte) : (e.setCtx c).push b = (e.push b).setCtx c := by
  by_cases hlast : e.fill = 63
  · rw [push_last b e hlast, push_last b (e.setCtx c) hlast]
    exact congrArg (fun x => x.setFill 0) ((e.store e.pushAddress b).setCtx_compress c)
  · rw [push_below b e hlast, push_below b (e.setCtx c) hlast]
    rfl

theorem Engine.setCtx_pushAll (bs : List Byte) :
    Engine.pushAll bs (e.setCtx c) = (Engine.pushAll bs e).setCtx c := by
  induction bs generalizing e with
  | nil => rfl
  | cons b rest ih => rw [pushAll, pushAll, setCtx_push, ih]

theorem Engine.setCtx_pad : (e.setCtx c).pad = e.pad.setCtx c := by
  rw [pad_eq_pushAll, pad_eq_pushAll, setCtx_pushAll, setCtx_fill, setCtx_cnt]

/-- UPDATE writes CTX and reads it nowhere. -/
theorem Engine.setCtx_updateByte (d : Byte) : (e.setCtx c).updateByte d = e.updateByte d := by
  rw [updateByte, updateByte, setCtx_countUp, setCtx_push, setCtx_markAccum]

/-- FINAL writes CTX and reads it nowhere. -/
theorem Engine.setCtx_finalDigest : (e.setCtx c).finalDigest = e.finalDigest := by
  rw [finalDigest, finalDigest, setCtx_pad, setCtx_emitDigest, setCtx_initContext]

end Ctx

theorem State.withEngine_withEngine (s : State) (d e : Engine) : (s.withEngine d).withEngine e = s.withEngine e := rfl

theorem State.eq_withEngine_setCtx_ctx (t : State) : t = t.withEngine (t.engine.setCtx t.engine.ctx) := rfl

/-- Settles O37: NOP keeps the difference in CTX, and every other command writes CTX over it. -/
theorem contextBitFeedsNoData : Obligations.ContextBitFeedsNoData := by
  refine ⟨fun i s c => ?_, rfl, rfl⟩
  cases i with
  | nop => exact ⟨_, _, exec_nop s, exec_nop _, rfl⟩
  | init => exact ⟨_, _, exec_init s, exec_init _, rfl⟩
  | update d =>
    refine ⟨_, _, exec_update s d, ?_, State.eq_withEngine_setCtx_ctx _⟩
    rw [exec_update, State.withEngine_engine, Engine.setCtx_updateByte, State.withEngine_withEngine]
  | final =>
    refine ⟨_, _, exec_final s, ?_, State.eq_withEngine_setCtx_ctx _⟩
    rw [exec_final, State.withEngine_engine, Engine.setCtx_finalDigest, State.withEngine_withEngine]

/-- Settles O36: CTX after each command and after a reset edge. -/
theorem contextStateTransitions : Obligations.ContextStateTransitions := by
  refine fun s => ⟨⟨s, rfl, rfl⟩, ⟨_, rfl, rfl⟩, fun d => ⟨_, rfl, s.engine.updateByte_ctx d⟩,
    ⟨_, rfl, s.engine.finalDigest_ctx⟩, fun hrst => ⟨_, step_of_rst hrst, ?_⟩⟩
  obtain ⟨-, -, -, hctx⟩ := Engine.resetAt_isFresh s.edge
  exact hctx

/-! ## Stale state (R67) -/

section Stale
variable {d e : Engine}

theorem Engine.SameButStale.initContext (h : d.SameButStale e) : d.initContext.SameButStale e.initContext :=
  ⟨rfl, rfl, rfl, rfl, h.digest_eq, h.dv_eq, fun i hi => absurd hi (Nat.not_lt_zero i)⟩

theorem Engine.SameButStale.setDigest (h : d.SameButStale e) (v : Vector Byte 32) :
    (d.setDigest v).SameButStale (e.setDigest v) :=
  { h with digest_eq := rfl }

theorem Engine.SameButStale.markValid (h : d.SameButStale e) : d.markValid.SameButStale e.markValid :=
  { h with dv_eq := rfl }

theorem Engine.SameButStale.emitDigest (h : d.SameButStale e) : d.emitDigest.SameButStale e.emitDigest := by
  rw [Engine.emitDigest, Engine.emitDigest, h.h_eq]
  exact (h.setDigest _).markValid

/-- After PUSH the byte just written is no longer stale, and the bytes below it were not. -/
theorem Engine.SameButStale.push_read (h : d.SameButStale e) (hd : d.buf.wf = true) (he : e.buf.wf = true) (b : Byte)
    {k : Nat} (hk : k ≤ d.fill.toNat) : (d.push b).buf.read k = (e.push b).buf.read k := by
  have haddr : d.pushAddress = d.fill.toNat := rfl
  have haddr' : e.pushAddress = d.fill.toNat := congrArg BitVec.toNat h.fill_eq.symm
  rw [push_buf, push_buf, Memory.read_write _ _ hd, Memory.read_write _ _ he, haddr, haddr']
  split
  · rfl
  · exact h.buf_eq k (by omega)

/-- COMPRESS at index 63 reads only bytes that are not stale. -/
theorem Engine.SameButStale.push_h (h : d.SameButStale e) (hd : d.buf.wf = true) (he : e.buf.wf = true) (b : Byte) :
    (d.push b).h = (e.push b).h := by
  by_cases hlast : d.fill = 63
  · have hat : d.fill.toNat = 63 := pushAddress_of_fill_eq hlast
    rw [d.push_h_of_eq b hlast, e.push_h_of_eq b (h.fill_eq ▸ hlast), h.h_eq]
    exact compressBlock_congr (fun k hk => h.push_read hd he b (by omega)) e.h
  · rw [d.push_below b hlast, e.push_below b (h.fill_eq ▸ hlast)]
    exact h.h_eq

theorem Engine.SameButStale.push (h : d.SameButStale e) (hd : d.buf.wf = true) (he : e.buf.wf = true) (b : Byte) :
    (d.push b).SameButStale (e.push b) where
  h_eq := h.push_h hd he b
  cnt_eq := by rw [push_cnt, push_cnt, h.cnt_eq]
  fill_eq := by rw [push_fill, push_fill, h.fill_eq]
  ctx_eq := by rw [push_ctx, push_ctx, h.ctx_eq]
  digest_eq := by rw [push_digest, push_digest, h.digest_eq]
  dv_eq := by rw [push_dv, push_dv, h.dv_eq]
  buf_eq := fun i hi => by
    rw [push_fill] at hi
    exact h.push_read hd he b (by bv_omega)

theorem Engine.SameButStale.pushAll (h : d.SameButStale e) (hd : d.buf.wf = true) (he : e.buf.wf = true)
    (bs : List Byte) : (Engine.pushAll bs d).SameButStale (Engine.pushAll bs e) := by
  induction bs generalizing d e with
  | nil => exact h
  | cons b rest ih => exact ih (h.push hd he b) (d.push_wf b hd) (e.push_wf b he)

theorem Engine.SameButStale.pad (h : d.SameButStale e) (hd : d.buf.wf = true) (he : e.buf.wf = true) :
    d.pad.SameButStale e.pad := by
  rw [pad_eq_pushAll, pad_eq_pushAll, ← h.fill_eq, ← h.cnt_eq]
  exact h.pushAll hd he _

theorem Engine.SameButStale.updateByte (h : d.SameButStale e) (hd : d.buf.wf = true) (he : e.buf.wf = true) (b : Byte) :
    (d.updateByte b).SameButStale (e.updateByte b) := by
  have hcounted : (d.setCnt (d.cnt + 1)).SameButStale (e.setCnt (e.cnt + 1)) :=
    { h with cnt_eq := congrArg (· + 1) h.cnt_eq }
  exact { hcounted.push hd he b with ctx_eq := rfl }

theorem Engine.SameButStale.finalDigest (h : d.SameButStale e) (hd : d.buf.wf = true) (he : e.buf.wf = true) :
    d.finalDigest.SameButStale e.finalDigest :=
  (h.pad hd he).emitDigest.initContext

end Stale

/-- Settles O47: `SameButStale` is kept by each command. -/
theorem staleStateNeverMatters : Obligations.StaleStateNeverMatters := by
  intro i s r hs hr h
  cases i with
  | nop => exact ⟨_, _, rfl, rfl, h⟩
  | init => exact ⟨_, _, rfl, rfl, h.initContext⟩
  | update b => exact ⟨_, _, rfl, rfl, h.updateByte hs hr b⟩
  | final => exact ⟨_, _, rfl, rfl, h.finalDigest hs hr⟩

/-! ## FINAL and double_hash (R158, R161) -/

/-- Settles O43: FINAL emits the hash of what the engine holds. -/
theorem finalEmitsHashOfAbsorbedMessage : Obligations.FinalEmitsHashOfAbsorbedMessage :=
  fun s _ hwf ha => ⟨_, exec_final s, ha.finalDigest_digest hwf, s.engine.finalDigest_dv⟩

theorem exec_keeps_wf {i : Instr} {s t : State} (hwf : s.engine.buf.wf = true) (ht : exec i s = .next t) :
    t.engine.buf.wf = true := by
  cases i <;> obtain rfl := Host.Outcome.next.inj ht
  case nop => exact hwf
  case init => exact s.engine.initContext_wf hwf
  case update d => exact s.engine.updateByte_wf d hwf
  case final => exact s.engine.finalDigest_wf hwf

theorem runCommands_keeps_wf {l : List Instr} {s t : State} (hwf : s.engine.buf.wf = true)
    (ht : runCommands l s = .next t) : t.engine.buf.wf = true := by
  induction l generalizing s with
  | nil =>
    obtain rfl := Host.Outcome.next.inj ht
    exact hwf
  | cons i l ih =>
    obtain ⟨e, he⟩ := exec_engine i s
    exact ih (exec_keeps_wf hwf he) (runCommands_cons_of_exec he ▸ ht)

/-- The commands of `hash(m)` leave `Hash(m)` in DIGEST. -/
theorem runCommands_hash (m : List Byte) {s : State} (hwf : s.engine.buf.wf = true) :
    ∃ t, runCommands (expand (.apiHash m)) s = .next t ∧ t.engine.digest = hashMessage m ∧ t.engine.dv = true := by
  obtain ⟨t, hrun, hdigest, hdv, -⟩ := runCommands_updates_final_of_isFresh
    (s := s.withEngine s.engine.initContext) (s.engine.initContext_wf hwf) s.engine.initContext_isFresh m
  exact ⟨t, hrun, hdigest, hdv⟩

/-- Settles O46: `hash` twice, the second time of the first one's digest. -/
theorem doubleHashIsHashOfHash : Obligations.DoubleHashIsHashOfHash := by
  intro m s hwf
  obtain ⟨t, hrun, hdigest, -⟩ := runCommands_hash m hwf
  obtain ⟨u, hrun', hdigest', hdv⟩ := runCommands_hash t.engine.digest.toList (runCommands_keeps_wf hwf hrun)
  refine ⟨u, ?_, ?_, hdv⟩
  · rw [doubleHash, hrun]
    exact hrun'
  · rw [hdigest', hdigest]

end Sys2Proof.Machine

/-! # Proofs: the clock edge, the handshake and reset (spec/10_state.md, spec/60_exceptions.md,
spec/70_reset_and_hazards.md)

An edge resets, runs the command it accepts, or waits; each statement follows from what `step` answers in these three
cases. A busy engine only waits, so as many edges as it is busy for lead to a ready one (R209). -/

namespace Sys2Proof.Machine

/-! ## Reset (R39, R183, R200, R201) -/

/-- Settles O51: the values are those that `Engine.afterReset` writes. -/
theorem resetStateValues : Obligations.ResetStateValues :=
  ⟨Engine.afterReset_h .., Engine.afterReset_cnt .., Engine.afterReset_fill .., Engine.afterReset_ctx ..,
    Engine.afterReset_dv .., rfl⟩

theorem State.not_accepts_of_rst {s : State} (hrst : s.nowPins.rst = true) : s.accepts = false := by
  simp [State.accepts, hrst]

/-- A ready engine accepts what is presented with rst = 0 (R32). -/
theorem State.accepts_of_ready {s : State} (hrst : s.nowPins.rst = false) (hvalid : s.nowPins.cmdValid = true)
    (hbusy : s.busy = 0) : s.accepts = true := by
  simp [State.accepts, State.cmdReady, hrst, hvalid, hbusy]

/-- Settles O50: a reset edge gives the engine of `Engine.resetAt`, Fresh as after INIT, and ready. -/
theorem resetWinsAndResets : Obligations.ResetWinsAndResets := by
  intro s hrst
  obtain ⟨hh, hcnt, hfill, hctx, hdv⟩ := Engine.resetAt_fields s.edge
  refine ⟨State.not_accepts_of_rst hrst, s.resetEdge.nextEdge, step_of_rst hrst, hh, hcnt, hfill, hctx, hdv,
    fun _ => rfl, rfl, fun hrst' hvalid => State.accepts_of_ready hrst' hvalid rfl, fun r u hu => ?_⟩
  obtain rfl := Host.Outcome.next.inj hu
  exact ⟨hh, hcnt, hfill, hctx⟩

/-! ## Accepted and waiting edges (R32) -/

/-- What an accepting edge answers, from what the command answers. -/
theorem step_of_exec {s t : State} (hrst : s.nowPins.rst = false) (hacc : s.accepts = true)
    (ht : exec (decode s.nowPins.cmd) s.nextEdge = .next t) :
    step s = .next (t.withBusy (latencyOf (decode s.nowPins.cmd) s.edge)) := by
  simp [step, hrst, hacc, ht, occupyFor]

/-- A ready engine runs the command that the first listed pins present. -/
theorem step_of_presented {s t : State} {p : Pins} {rest : List Pins} (hpins : s.pins = p :: rest)
    (hrst : p.rst = false) (hvalid : p.cmdValid = true) (hbusy : s.busy = 0)
    (ht : exec (decode p.cmd) { s with pins := rest, edge := s.edge + 1 } = .next t) :
    step s = .next (t.withBusy (latencyOf (decode p.cmd) s.edge)) := by
  have hnow : s.nowPins = p := by rw [State.nowPins, hpins]
  have hnext : s.nextEdge = { s with pins := rest, edge := s.edge + 1 } := by
    rw [State.nextEdge, hpins]
    rfl
  rw [← hnow] at hrst hvalid ht ⊢
  exact step_of_exec hrst (State.accepts_of_ready hrst hvalid hbusy) (hnext ▸ ht)

/-- A table word that spells a command is presented as a word of the port that decodes to it. -/
theorem present_of_decodeTableWord {nbits w : Nat} {i : Instr} (hi : decodeTableWord nbits w = some i) :
    ∃ c, Pins.present (tableNumber nbits w) = ⟨false, true, c⟩ ∧ decode c = i := by
  unfold decodeTableWord decodeNumber at hi
  by_cases hfits : cmdNumberFits (tableNumber nbits w) = true
  · rw [if_pos hfits] at hi
    exact ⟨_, if_pos hfits, Option.some.inj hi⟩
  · rw [if_neg hfits] at hi
    cases hi

/-- Settles O48: the first clause is `step_of_presented`, and withFetchWord presents its word. -/
theorem stepRunsAcceptedCommand : Obligations.StepRunsAcceptedCommand := by
  refine ⟨fun s t p rest => step_of_presented, fun s t nbits w i hi ht => ?_⟩
  obtain ⟨c, hpresent, rfl⟩ := present_of_decodeTableWord hi
  have hpins : (s.withFetchWord nbits w).pins = ⟨false, true, c⟩ :: s.pins.tail := by
    rw [← hpresent]
    rfl
  have hstep := step_of_presented (t := t) hpins rfl rfl rfl ht
  exact hstep

theorem State.not_accepts_of_busy {s : State} (hbusy : 0 < s.busy) : s.accepts = false := by
  simp [State.accepts, State.cmdReady, hbusy.ne']

/-- Settles O49: `State.wait` is one busy edge less, and a command needs cmd_valid and a ready engine. -/
theorem nothingAcceptedNothingChanges : Obligations.NothingAcceptedNothingChanges :=
  ⟨fun _ => step_of_not_accepts, fun _ => State.not_accepts_of_busy, fun _ => State.not_accepts_of_cmdValid⟩

/-! ## A command in progress (R181, R206, R209) -/

theorem run_succ_of_step {M : Host.Core} {s t : M.State} (k : Nat) (ht : M.step s = .next t) :
    M.run (k + 1) s = M.run k t := by
  rw [Host.Core.run, ht]

/-- The state in which a command in progress has ended. -/
def State.afterBusy (s : State) : State :=
  { s with busy := 0, pins := s.pins.drop s.busy, edge := s.edge + s.busy }

/-- One edge of a busy engine comes nearer to the same end. -/
theorem State.afterBusy_wait {s : State} (hbusy : 0 < s.busy) : s.wait.nextEdge.afterBusy = s.afterBusy := by
  have hedge : s.edge + 1 + (s.busy - 1) = s.edge + s.busy := by omega
  have hpins : s.pins.tail.drop (s.busy - 1) = s.pins.drop s.busy := by
    rw [List.drop_tail, Nat.sub_add_cancel hbusy]
  simp [afterBusy, hedge, hpins]

/-- The pins that a busy engine meets at its next edge, and those it meets at the busy edges after that. -/
theorem State.busy_pins {s : State} (hbusy : 0 < s.busy) (hpins : ∀ p, p ∈ s.pins.take s.busy → p.rst = false) :
    s.nowPins.rst = false ∧ ∀ p, p ∈ s.pins.tail.take (s.busy - 1) → p.rst = false := by
  obtain ⟨n, hn⟩ := Nat.exists_eq_add_one.2 hbusy
  rw [hn] at hpins ⊢
  cases hlist : s.pins with
  | nil => simp [nowPins, hlist, Pins.idle]
  | cons q rest =>
    rw [hlist, List.take_succ_cons, List.forall_mem_cons] at hpins
    simpa [nowPins, hlist] using hpins

/-- With rst = 0 a busy engine waits until its command has ended. -/
theorem run_busy {s : State} (hpins : ∀ p, p ∈ s.pins.take s.busy → p.rst = false) :
    Host.Core.run core s.busy s = .next s.afterBusy := by
  induction hn : s.busy generalizing s with
  | zero =>
    obtain ⟨e, b, pins, edge⟩ := s
    obtain rfl : b = 0 := hn
    rfl
  | succ n ih =>
    have hbusy : 0 < s.busy := by omega
    obtain ⟨hrst, hrest⟩ := State.busy_pins hbusy hpins
    have hstep := step_of_not_accepts hrst (State.not_accepts_of_busy hbusy)
    rw [← State.afterBusy_wait hbusy]
    exact (run_succ_of_step (M := core) n hstep).trans (ih hrest (by simp [hn]))

/-- Settles O53: `run_busy`. -/
theorem commandInProgressEnds : Obligations.CommandInProgressEnds :=
  fun s hpins => ⟨s.afterBusy, run_busy hpins, rfl, rfl, rfl, rfl⟩

/-- Settles O54: the pins left after the busy edges begin with the one that is still held. -/
theorem heldCommandIsAccepted : Obligations.HeldCommandIsAccepted := by
  intro s p rest hrst hvalid hpins
  have hbusy : ∀ q, q ∈ s.pins.take s.busy → q.rst = false := by
    intro q hq
    rw [hpins, List.replicate_succ', List.append_assoc, List.take_left' List.length_replicate] at hq
    rw [List.eq_of_mem_replicate hq, hrst]
  have hnow : s.afterBusy.nowPins = p := by
    have hleft : s.afterBusy.pins = p :: rest := by
      rw [State.afterBusy, hpins, List.replicate_succ', List.append_assoc, List.drop_left' List.length_replicate]
      rfl
    rw [State.nowPins, hleft]
  refine ⟨s.afterBusy, run_busy hbusy, State.accepts_of_ready ?_ ?_ rfl, hnow, rfl⟩
  · rw [hnow, hrst]
  · rw [hnow, hvalid]

/-! ## The ports (R31, R33) -/

theorem State.outputsDefined_of_ready {s : State} (hready : s.cmdReady = true) (hrst : s.nowPins.rst = false) :
    s.outputsDefined = true := by
  simp [State.outputsDefined, hready, hrst]

theorem Ctx.bit_eq_true_iff (c : Ctx) : c.bit = true ↔ c = .accum := by
  cases c <;> simp [Ctx.bit]

theorem State.outputs_digest_of_usable {s : State} (h : s.digestUsable = true) :
    s.outputs.digest = digestPort s.engine.digest := if_pos h

/-- Settles O55: in a cycle in which they are defined the outputs are DV, CTX and DIGEST. -/
theorem outputsShowStatus : Obligations.OutputsShowStatus := by
  refine fun s => ⟨beq_iff_eq, fun hready hrst => ⟨?valid, ?accum, fun hdv => ?usable⟩, fun h i hi => ?digest,
    fun hrst => ⟨_, step_of_rst hrst, rfl⟩⟩
  case valid => exact if_pos (State.outputsDefined_of_ready hready hrst)
  case accum =>
    have hshown : s.outputs.ctxAccum = s.engine.ctx.bit := if_pos (State.outputsDefined_of_ready hready hrst)
    rw [hshown, Ctx.bit_eq_true_iff]
  case usable => rw [State.digestUsable, State.outputsDefined_of_ready hready hrst, hdv, Bool.and_self]
  case digest => rw [State.outputs_digest_of_usable h, digestPort_extractLsb' _ hi]

/-! ## DIGEST and DV (R29) -/

/-- Of the commands only FINAL writes DIGEST and DV. -/
theorem exec_keeps_digest {i : Instr} {s t : State} (hi : i ≠ .final) (ht : exec i s = .next t) :
    t.engine.digest = s.engine.digest ∧ t.engine.dv = s.engine.dv := by
  cases i <;> obtain rfl := Host.Outcome.next.inj ht
  case nop => exact ⟨rfl, rfl⟩
  case init => exact ⟨rfl, rfl⟩
  case update d => exact ⟨s.engine.updateByte_digest d, s.engine.updateByte_dv d⟩
  case final => exact absurd rfl hi

theorem exec_final_digest {s t : State} (ht : exec .final s = .next t) :
    t.engine.digest = serializeDigest s.engine.pad.h ∧ t.engine.dv = true := by
  obtain rfl := Host.Outcome.next.inj ht
  exact ⟨s.engine.finalDigest_digest, s.engine.finalDigest_dv⟩

theorem State.resetEdge_dv (s : State) : s.resetEdge.engine.dv = false := by
  obtain ⟨-, -, -, -, hdv⟩ := Engine.resetAt_fields s.edge
  exact hdv

/-- Settles O38: the three kinds of edge, and of the commands FINAL alone writes DIGEST and DV. -/
theorem digestHeldUntilNextFinal : Obligations.DigestHeldUntilNextFinal := by
  refine ⟨fun s t ht hrst hnot => ?held, fun s t ht hrst hacc hfinal => ?emitted, fun s t ht hrst => ?reset, rfl⟩
  case held =>
    obtain ⟨hrst', -⟩ | ⟨-, hacc, e, he, rfl⟩ | ⟨-, -, rfl⟩ := step_cases ht
    · exact absurd hrst' (by simp [hrst])
    · have hkept := exec_keeps_digest (hnot.resolve_left (by simp [hacc])) he
      exact hkept
    · exact ⟨rfl, rfl⟩
  case emitted =>
    obtain ⟨hrst', -⟩ | ⟨-, -, e, he, rfl⟩ | ⟨-, hacc', -⟩ := step_cases ht
    · exact absurd hrst' (by simp [hrst])
    · rw [hfinal] at he
      have hemitted := exec_final_digest he
      exact hemitted
    · exact absurd hacc' (by simp [hacc])
  case reset =>
    rw [step_of_rst hrst] at ht
    obtain rfl := Host.Outcome.next.inj ht
    exact s.resetEdge_dv

/-! ## The invariant of every state (R38, R158) -/

theorem State.reset_isFresh : State.reset.engine.IsFresh := ⟨rfl, rfl, rfl, rfl⟩

/-- Settles O41: the reset state is Fresh, with an empty buffer and no valid digest. -/
theorem resetMeetsInvariant : Obligations.ResetMeetsInvariant :=
  ⟨State.reset_wf, ⟨[], State.reset_isFresh.absorbed_nil⟩, fun hdv => absurd hdv (by decide)⟩

section Inv
variable {s t : State}

/-- The invariant speaks of the engine alone. -/
theorem State.Inv.of_engine_eq (hs : s.Inv) (ht : t.engine = s.engine) : t.Inv := by
  obtain ⟨hwf, hmessage, hdigest⟩ := hs
  rw [← ht] at hwf hmessage hdigest
  exact ⟨hwf, hmessage, hdigest⟩

theorem State.resetEdge_inv (s : State) : s.resetEdge.Inv where
  buf_wf := Engine.resetAt_wf s.edge
  message := ⟨[], (Engine.resetAt_isFresh s.edge).absorbed_nil⟩
  digest hdv := by
    rw [s.resetEdge_dv] at hdv
    exact absurd hdv Bool.false_ne_true

/-- UPDATE extends the message, INIT and FINAL begin the empty one, and FINAL emits the hash of the one it ends. -/
theorem exec_keeps_inv {i : Instr} (hs : s.Inv) (ht : exec i s = .next t) : t.Inv := by
  obtain ⟨hwf, ⟨m, hm⟩, hdigest⟩ := hs
  have hwf' := exec_keeps_wf hwf ht
  cases i <;> obtain rfl := Host.Outcome.next.inj ht
  case nop => exact ⟨hwf, ⟨m, hm⟩, hdigest⟩
  case init => exact ⟨hwf', ⟨[], s.engine.initContext_isFresh.absorbed_nil⟩, hdigest⟩
  case update d =>
    refine ⟨hwf', ⟨m ++ [d], hm.updateByte hwf d⟩, ?_⟩
    rw [State.withEngine_engine, Engine.updateByte_dv, Engine.updateByte_digest]
    exact hdigest
  case final =>
    exact ⟨hwf', ⟨[], s.engine.finalDigest_isFresh.absorbed_nil⟩, fun _ => ⟨m, hm.finalDigest_digest hwf⟩⟩

end Inv

/-- Settles O40: a reset begins the empty message, a command keeps the invariant, and waiting changes no engine. -/
theorem everyStepKeepsInvariant : Obligations.EveryStepKeepsInvariant := by
  intro s t hs ht
  obtain ⟨-, rfl⟩ | ⟨-, -, e, he, rfl⟩ | ⟨-, -, rfl⟩ := step_cases ht
  · exact s.resetEdge_inv.of_engine_eq rfl
  · have hedge : s.nextEdge.Inv := hs.of_engine_eq rfl
    exact (exec_keeps_inv hedge he).of_engine_eq rfl
  · exact hs.of_engine_eq rfl

end Sys2Proof.Machine
